-- ==== Sys2Proof/Word.lean ====
section
/-! DEFINITION. The value types of rule R3: bits, bit sequences, characters and strings. -/

namespace Sys2Proof

/-- R3: a finite sequence of bits; index 0 is the first bit, the most significant. -/
abbrev BitSeq := List Bool

/-- R3, R13: a character, identified with its code point; on the ports it is an 8-bit code. -/
abbrev Chr := BitVec 8

/-- R3: a finite sequence of characters. -/
abbrev Str := List Chr

/-- A string literal as the spec writes it: each character stands for its ASCII code (R3, G1). -/
def str (s : String) : Str := s.toList.map fun c => BitVec.ofNat 8 c.toNat

end Sys2Proof
end

