-- ==== Sys2Proof/Config.lean ====
section
/-! DEFINITION. What an implementation fixes and the spec leaves open: an opaque constant with no body, so that no proof can
see its value. -/

namespace Sys2Proof

/-- The open parameter HEX_LOWER (00_scope.md section 4, decision D14, U9): true is `accept` (the characters `a` to `f`
are hexadecimal digits of value 10 to 15), false is `malformed`. Log entry 6. -/
opaque Config.hexLowerAccepted : Bool

end Sys2Proof
end

