-- ==== Sys2Proof/Machine/BitString.lean ====
section
/-! DEFINITION. The BitString Codec sub-block (40_bitstring.md, rules R50 to R60) and the read primitive (R22). -/

namespace Sys2Proof

/-- R22: `Take(b, off, w)`, the `w` bits at offsets `off` to `off + w − 1`. The spec defines it only when they exist;
every use stands under a check that they do. -/
def takeBits (b : BitSeq) (off w : Nat) : BitSeq := (b.drop off).take w

/-- R51: the unsigned big-endian value of a bit sequence; the empty sequence is 0. -/
def bitsToUnsigned (b : BitSeq) : Nat := b.foldl (fun v x => 2 * v + x.toNat) 0

/-- R60: the uppercase hexadecimal character of a value 0 to 15. -/
def hexChar (v : Nat) : Chr := if v ≤ 9 then BitVec.ofNat 8 (48 + v) else BitVec.ofNat 8 (55 + v)

/-- R50: the value of a hexadecimal digit; none where the character is not a valid one. Lowercase `a` to `f` are as the
open parameter HEX_LOWER says. -/
def hexDigit? (c : Chr) : Option Nat :=
  if 48 ≤ c.toNat ∧ c.toNat ≤ 57 then some (c.toNat - 48)
  else if 65 ≤ c.toNat ∧ c.toNat ≤ 70 then some (c.toNat - 55)
  else if 97 ≤ c.toNat ∧ c.toNat ≤ 102 then
    (if Config.hexLowerAccepted then some (c.toNat - 87) else none)
  else none

/-- R20, R50: the four bits of a hexadecimal digit, most significant first. -/
def nibble (v : Nat) : BitSeq := [v / 8 % 2 == 1, v / 4 % 2 == 1, v / 2 % 2 == 1, v % 2 == 1]

/-- R50: `hexToBits`; none is the error MalformedHex. -/
def hexToBits : Str → Option BitSeq
  | [] => some []
  | c :: cs =>
    match hexDigit? c, hexToBits cs with
    | some v, some b => some (nibble v ++ b)
    | _, _ => none

/-- The groups of `w` bits of a sequence, left to right, the last one possibly shorter (R52, R71); the first argument
bounds their number. -/
def groups (w : Nat) : Nat → BitSeq → List BitSeq
  | 0, _ => []
  | n + 1, b => if b.isEmpty then [] else b.take w :: groups w n (b.drop w)

/-- R52, R71: all groups of `w` bits. -/
def groupsOf (w : Nat) (b : BitSeq) : List BitSeq := groups w b.length b

/-- R52: `bitsToHex`. A short last group is read as a number of its own: it is not zero-extended on the right. -/
def bitsToHex (b : BitSeq) : Str := (groupsOf 4 b).map fun g => hexChar (bitsToUnsigned g)

/-- R53: `padLeft`, a zero-fill in front that never shortens (the subtraction is 0 where the sequence is long enough). -/
def padLeft {α : Type} (zero : α) (s : List α) (width : Nat) : List α := List.replicate (width - s.length) zero ++ s

/-- R53 for decimal digit strings: the padding character is `'0'`. -/
def padLeftDigits (s : Str) (width : Nat) : Str := padLeft 48#8 s width

/-- R3: `zeros(n)`. -/
def zeros (n : Nat) : BitSeq := List.replicate n false

/-- R54: `padRight`, zero bits behind; it never shortens. -/
def padRight (b : BitSeq) (width : Nat) : BitSeq := b ++ zeros (width - b.length)

/-- R58: the binary bit-length, the least `n` with `v < 2^n`. -/
def bitlen (v : Nat) : Nat := if v = 0 then 0 else v.log2 + 1

/-- The last `w` binary digits of `v`, most significant first. -/
def lowBits : Nat → Nat → BitSeq
  | 0, _ => []
  | w + 1, v => lowBits w (v / 2) ++ [v % 2 == 1]

/-- R55: the shortest bit sequence of value `v` (log entry 18: none at all for 0). -/
def binary (v : Nat) : BitSeq := lowBits (bitlen v) v

/-- R55: the field packer `toBits(v, w)`; a value of `2^w` or more gives more than `w` bits, since `padLeft` does not
truncate. -/
def toBits (v w : Nat) : BitSeq := padLeft false (binary v) w

/-- R56: one of the characters `'0'` to `'9'`. -/
def isDigit (c : Chr) : Bool := 48 ≤ c.toNat && c.toNat ≤ 57

/-- R3, R56: a DigitStr is not empty and holds only `'0'` to `'9'`. -/
def isDigitStr (s : Str) : Bool := !s.isEmpty && s.all isDigit

/-- The value of a decimal digit character (R75: `d[i] − '0'`). -/
def digitVal (c : Chr) : Nat := c.toNat - 48

/-- R56: the value of a decimal string, most significant digit first. -/
def parseDec (s : Str) : Nat := s.foldl (fun v c => 10 * v + digitVal c) 0

/-- R57, R75: the character `'0' + v`. -/
def digitChar (v : Nat) : Chr := BitVec.ofNat 8 (48 + v)

/-- The decimal digits of `v`, at most as many as the first argument. -/
def decDigits : Nat → Nat → Str
  | 0, _ => []
  | n + 1, v => if v < 10 then [digitChar v] else decDigits n (v / 10) ++ [digitChar (v % 10)]

/-- R57: the shortest decimal rendering of `v`; a number has no more decimal digits than binary ones. -/
def dec (v : Nat) : Str := decDigits (v.log2 + 1) v

end Sys2Proof
end

