-- ==== Sys2Proof/Machine/PartitionTable.lean ====
section
/-! DEFINITION. The Partition Table sub-block (41_partition_table.md, rules R65 to R67). -/

namespace Sys2Proof

/-- R65: one row of the partition table. -/
structure PartitionEntry where
  companyPrefixBits : Nat
  assetRefCumulativeBits : Nat
  serialRefBits : Nat
  deriving DecidableEq, Repr

/-- R65: the seven rows, index 0 first. -/
def partitionTable : List PartitionEntry :=
  [⟨40, 42, 18⟩, ⟨37, 45, 21⟩, ⟨34, 48, 24⟩, ⟨30, 52, 28⟩, ⟨27, 55, 31⟩, ⟨24, 58, 34⟩, ⟨20, 62, 38⟩]

/-- R66: pure lookup; none is the error InvalidPartition (an index above 6), never a clamp. -/
def partitionEntry (p : Nat) : Option PartitionEntry := partitionTable[p]?

/-- R67: `cpw`, company-prefix width in bits. -/
def PartitionEntry.cpw (e : PartitionEntry) : Nat := e.companyPrefixBits

/-- R67: `irw`, item-reference width in bits. -/
def PartitionEntry.irw (e : PartitionEntry) : Nat := e.assetRefCumulativeBits - 38

/-- R67: `srw`, serial-reference width in bits. -/
def PartitionEntry.srw (e : PartitionEntry) : Nat := e.serialRefBits

/-- R67: `cpd`, company-prefix digits. -/
def cpd (p : Nat) : Nat := 12 - p

/-- R67: `ird`, item-reference digits, `13 − (12 − p)`. -/
def ird (p : Nat) : Nat := 13 - (12 - p)

/-- R67: `srd`, serial-reference digits, extension digit included, `17 − (12 − p)`. -/
def srd (p : Nat) : Nat := 17 - (12 - p)

/-- R67: `srpad`, the digits the encoder pads the serial reference to, `p + 5 − 1`. -/
def srpad (p : Nat) : Nat := p + 5 - 1

end Sys2Proof
end

