-- ==== Sys2Proof/Syntax.lean ====
section
/-! DEFINITION. The syntax: what a host presents to the block (rules R12, R13, R36), and the instructions, one
constructor for each row of spec/opcode_table.json. -/

namespace Sys2Proof

/-- R31: the six standards that are recognised by header but not decodable. -/
inductive ReservedName where
  | dod64 | dod96 | gln96 | grai96 | giai96 | gid96
  deriving DecidableEq, Repr

/-- R31: what the header table maps a header byte to. -/
inductive EncodingVariant where
  | sgtin96
  | sgtin198
  | sscc96
  | reserved (name : ReservedName)
  deriving DecidableEq, Repr

/-- R13: the request operands. Operands an operation does not name are ignored. -/
structure Request where
  op : BitVec 4
  filter : Nat := 0
  partition : Nat := 0
  companyPrefix : Str := []
  itemReference : Str := []
  serial : Str := []
  extension : Str := []
  image : Str := []
  digits : Str := []
  deriving DecidableEq, Repr

/-- What a host presents to the block, the two kinds of word of 30_encoding.md: an operation with its operands (format CMD), or a tag
image by itself as its hexadecimal string (formats TAG96, TAG198, TAGRSV), which asks for its decoding (log entry 3). -/
inductive Presented where
  | command (req : Request)
  | image (hex : Str)
  deriving DecidableEq, Repr

/-- The instructions: the ten operations (R39), the 21 image formats of the three implemented variants by partition
(R26), the six reserved headers (R31, R32), the unsupported headers (R106) and partition 7 (R108).
A field of fixed width is a bit vector of that width; what a format ends in ("all remaining bits") is a bit sequence. -/
inductive Instr where
  | encSgtin96 (filter partition : Nat) (companyPrefix itemReference serial : Str)
  | encSgtin198 (filter partition : Nat) (companyPrefix itemReference serial : Str)
  | encSscc96 (filter partition : Nat) (companyPrefix extension serial : Str)
  | reserSgtin96 (image serial : Str)
  | dec (image : Str)
  | decGtin (image : Str)
  | decSscc (image : Str)
  | decSerial (image : Str)
  | chkDigit (digits : Str)
  | chkValid (digits : Str)
  | sgtin96P0 (filter : BitVec 3) (companyPrefix : BitVec 40) (itemReference : BitVec 4) (serial : BitVec 38)
  | sgtin96P1 (filter : BitVec 3) (companyPrefix : BitVec 37) (itemReference : BitVec 7) (serial : BitVec 38)
  | sgtin96P2 (filter : BitVec 3) (companyPrefix : BitVec 34) (itemReference : BitVec 10) (serial : BitVec 38)
  | sgtin96P3 (filter : BitVec 3) (companyPrefix : BitVec 30) (itemReference : BitVec 14) (serial : BitVec 38)
  | sgtin96P4 (filter : BitVec 3) (companyPrefix : BitVec 27) (itemReference : BitVec 17) (serial : BitVec 38)
  | sgtin96P5 (filter : BitVec 3) (companyPrefix : BitVec 24) (itemReference : BitVec 20) (serial : BitVec 38)
  | sgtin96P6 (filter : BitVec 3) (companyPrefix : BitVec 20) (itemReference : BitVec 24) (serial : BitVec 38)
  | sgtin198P0 (filter : BitVec 3) (companyPrefix : BitVec 40) (itemReference : BitVec 4) (serial : BitSeq)
  | sgtin198P1 (filter : BitVec 3) (companyPrefix : BitVec 37) (itemReference : BitVec 7) (serial : BitSeq)
  | sgtin198P2 (filter : BitVec 3) (companyPrefix : BitVec 34) (itemReference : BitVec 10) (serial : BitSeq)
  | sgtin198P3 (filter : BitVec 3) (companyPrefix : BitVec 30) (itemReference : BitVec 14) (serial : BitSeq)
  | sgtin198P4 (filter : BitVec 3) (companyPrefix : BitVec 27) (itemReference : BitVec 17) (serial : BitSeq)
  | sgtin198P5 (filter : BitVec 3) (companyPrefix : BitVec 24) (itemReference : BitVec 20) (serial : BitSeq)
  | sgtin198P6 (filter : BitVec 3) (companyPrefix : BitVec 20) (itemReference : BitVec 24) (serial : BitSeq)
  | sscc96P0 (filter : BitVec 3) (companyPrefix : BitVec 40) (serialReference : BitVec 18) (unallocated : BitSeq)
  | sscc96P1 (filter : BitVec 3) (companyPrefix : BitVec 37) (serialReference : BitVec 21) (unallocated : BitSeq)
  | sscc96P2 (filter : BitVec 3) (companyPrefix : BitVec 34) (serialReference : BitVec 24) (unallocated : BitSeq)
  | sscc96P3 (filter : BitVec 3) (companyPrefix : BitVec 30) (serialReference : BitVec 28) (unallocated : BitSeq)
  | sscc96P4 (filter : BitVec 3) (companyPrefix : BitVec 27) (serialReference : BitVec 31) (unallocated : BitSeq)
  | sscc96P5 (filter : BitVec 3) (companyPrefix : BitVec 24) (serialReference : BitVec 34) (unallocated : BitSeq)
  | sscc96P6 (filter : BitVec 3) (companyPrefix : BitVec 20) (serialReference : BitVec 38) (unallocated : BitSeq)
  | reservedDod64 (filter partition : BitVec 3) (rest : BitSeq)
  | reservedDod96 (filter partition : BitVec 3) (rest : BitSeq)
  | reservedGln96 (filter partition : BitVec 3) (rest : BitSeq)
  | reservedGrai96 (filter partition : BitVec 3) (rest : BitSeq)
  | reservedGiai96 (filter partition : BitVec 3) (rest : BitSeq)
  | reservedGid96 (filter partition : BitVec 3) (rest : BitSeq)
  | unsupported (header : BitVec 8) (rest : BitSeq)
  | partition7 (header : BitVec 8) (filter : BitVec 3) (rest : BitSeq)
  deriving DecidableEq, Repr

end Sys2Proof
end

