-- ==== Sys2Proof/Machine/HeaderTable.lean ====
section
/-! DEFINITION. The header table (30_encoding.md, rules R31, R32). -/

namespace Sys2Proof

/-- R31, R32: the fixed header table; none is an unsupported header (R106). The pairing of the six reserved names with their
bytes is that of rule R32 (the spec's own decision D9; log entry 10). -/
def headerTable (header : Nat) : Option EncodingVariant :=
  match header with
  | 48 => some .sgtin96
  | 49 => some .sscc96
  | 54 => some .sgtin198
  | 206 => some (.reserved .dod64)
  | 207 => some (.reserved .dod96)
  | 50 => some (.reserved .gln96)
  | 51 => some (.reserved .grai96)
  | 52 => some (.reserved .giai96)
  | 53 => some (.reserved .gid96)
  | _ => none

end Sys2Proof
end

