-- ==== Sys2Proof/WellFormed.lean ====
section
/-! DEFINITION. Well-formed instructions: those that some presented word decodes to.
Every request can be presented, so the ten operations carry no check; an image crosses the interface as a hexadecimal
string (R19), so its length is a whole number of nibbles, and a row stands only for the images the decoder sends to it. -/

namespace Sys2Proof

/-- R20, R37: an image presented as a string has 4 bits a character. -/
def wholeNibbles (length : Nat) : Bool := length % 4 == 0

/-- R112, R116, R108: a reserved image has at least 58 bits, and partition bits other than 111. -/
def reservedWf (partition : BitVec 3) (rest : BitSeq) : Bool :=
  partition != 7#3 && (44 ≤ rest.length && wholeNibbles (14 + rest.length))

/-- An instruction is well formed: its row's side conditions hold (R106, R108, R112, R113, R114, R116). -/
def Instr.wf : Instr → Bool
  | .encSgtin96 _ _ _ _ _ => true
  | .encSgtin198 _ _ _ _ _ => true
  | .encSscc96 _ _ _ _ _ => true
  | .reserSgtin96 _ _ => true
  | .dec _ => true
  | .decGtin _ => true
  | .decSscc _ => true
  | .decSerial _ => true
  | .chkDigit _ => true
  | .chkValid _ => true
  | .sgtin96P0 _ _ _ _ => true
  | .sgtin96P1 _ _ _ _ => true
  | .sgtin96P2 _ _ _ _ => true
  | .sgtin96P3 _ _ _ _ => true
  | .sgtin96P4 _ _ _ _ => true
  | .sgtin96P5 _ _ _ _ => true
  | .sgtin96P6 _ _ _ _ => true
  | .sgtin198P0 _ _ _ serial => wholeNibbles (58 + serial.length)
  | .sgtin198P1 _ _ _ serial => wholeNibbles (58 + serial.length)
  | .sgtin198P2 _ _ _ serial => wholeNibbles (58 + serial.length)
  | .sgtin198P3 _ _ _ serial => wholeNibbles (58 + serial.length)
  | .sgtin198P4 _ _ _ serial => wholeNibbles (58 + serial.length)
  | .sgtin198P5 _ _ _ serial => wholeNibbles (58 + serial.length)
  | .sgtin198P6 _ _ _ serial => wholeNibbles (58 + serial.length)
  | .sscc96P0 _ _ _ unallocated => wholeNibbles (72 + unallocated.length)
  | .sscc96P1 _ _ _ unallocated => wholeNibbles (72 + unallocated.length)
  | .sscc96P2 _ _ _ unallocated => wholeNibbles (72 + unallocated.length)
  | .sscc96P3 _ _ _ unallocated => wholeNibbles (72 + unallocated.length)
  | .sscc96P4 _ _ _ unallocated => wholeNibbles (72 + unallocated.length)
  | .sscc96P5 _ _ _ unallocated => wholeNibbles (72 + unallocated.length)
  | .sscc96P6 _ _ _ unallocated => wholeNibbles (72 + unallocated.length)
  | .reservedDod64 _ partition rest => reservedWf partition rest
  | .reservedDod96 _ partition rest => reservedWf partition rest
  | .reservedGln96 _ partition rest => reservedWf partition rest
  | .reservedGrai96 _ partition rest => reservedWf partition rest
  | .reservedGiai96 _ partition rest => reservedWf partition rest
  | .reservedGid96 _ partition rest => reservedWf partition rest
  | .unsupported header rest => (headerTable header.toNat).isNone && wholeNibbles (8 + rest.length)
  | .partition7 header _ rest => (headerTable header.toNat).isSome && wholeNibbles (14 + rest.length)

end Sys2Proof
end

