-- ==== Sys2Proof/Decode.lean ====
section
/-! DEFINITION. Decoding of presented words, total, rejecting by name; the encoder; the words of spec/opcode_table.json.
The image formats are read at the literal offsets and widths of rule R26; the DEC operation (Machine/Decoder.lean)
follows the running cursor of rule R115 instead, and the two are held against each other by statements. -/

namespace Sys2Proof

/-- Why a presented word is no instruction. -/
inductive DecodeError where
  /-- U14: `req.op` of 0 or 11 to 15. -/
  | reservedSelect
  /-- R50: a character of the image is not a hexadecimal digit. -/
  | malformedHex
  /-- R116, U5: too few bits for the next field. -/
  | imageTooShort
  /-- R111, U5: an image of header 48 whose length is not 96 bits. -/
  | sgtin96LengthNot96
  deriving DecidableEq, Repr

/-- The field of `w` bits at offset `off` (R21: unsigned, big-endian). -/
def field (b : BitSeq) (off w : Nat) : BitVec w := BitVec.ofNat w (bitsToUnsigned (takeBits b off w))

/-- R111, R26: an SGTIN-96 image of 96 bits. -/
def decodeSgtin96 (b : BitSeq) (p : Nat) : Instr :=
  match p with
  | 0 => .sgtin96P0 (field b 8 3) (field b 14 40) (field b 54 4) (field b 58 38)
  | 1 => .sgtin96P1 (field b 8 3) (field b 14 37) (field b 51 7) (field b 58 38)
  | 2 => .sgtin96P2 (field b 8 3) (field b 14 34) (field b 48 10) (field b 58 38)
  | 3 => .sgtin96P3 (field b 8 3) (field b 14 30) (field b 44 14) (field b 58 38)
  | 4 => .sgtin96P4 (field b 8 3) (field b 14 27) (field b 41 17) (field b 58 38)
  | 5 => .sgtin96P5 (field b 8 3) (field b 14 24) (field b 38 20) (field b 58 38)
  | _ => .sgtin96P6 (field b 8 3) (field b 14 20) (field b 34 24) (field b 58 38)

/-- R114, R26: an SGTIN-198 image of at least 58 bits. -/
def decodeSgtin198 (b : BitSeq) (p : Nat) : Instr :=
  match p with
  | 0 => .sgtin198P0 (field b 8 3) (field b 14 40) (field b 54 4) (b.drop 58)
  | 1 => .sgtin198P1 (field b 8 3) (field b 14 37) (field b 51 7) (b.drop 58)
  | 2 => .sgtin198P2 (field b 8 3) (field b 14 34) (field b 48 10) (b.drop 58)
  | 3 => .sgtin198P3 (field b 8 3) (field b 14 30) (field b 44 14) (b.drop 58)
  | 4 => .sgtin198P4 (field b 8 3) (field b 14 27) (field b 41 17) (b.drop 58)
  | 5 => .sgtin198P5 (field b 8 3) (field b 14 24) (field b 38 20) (b.drop 58)
  | _ => .sgtin198P6 (field b 8 3) (field b 14 20) (field b 34 24) (b.drop 58)

/-- R113, R26: an SSCC-96 image of at least 72 bits. -/
def decodeSscc96 (b : BitSeq) (p : Nat) : Instr :=
  match p with
  | 0 => .sscc96P0 (field b 8 3) (field b 14 40) (field b 54 18) (b.drop 72)
  | 1 => .sscc96P1 (field b 8 3) (field b 14 37) (field b 51 21) (b.drop 72)
  | 2 => .sscc96P2 (field b 8 3) (field b 14 34) (field b 48 24) (b.drop 72)
  | 3 => .sscc96P3 (field b 8 3) (field b 14 30) (field b 44 28) (b.drop 72)
  | 4 => .sscc96P4 (field b 8 3) (field b 14 27) (field b 41 31) (b.drop 72)
  | 5 => .sscc96P5 (field b 8 3) (field b 14 24) (field b 38 34) (b.drop 72)
  | _ => .sscc96P6 (field b 8 3) (field b 14 20) (field b 34 38) (b.drop 72)

/-- R112: an image of a reserved header. -/
def decodeReserved (name : ReservedName) (b : BitSeq) : Instr :=
  match name with
  | .dod64 => .reservedDod64 (field b 8 3) (field b 11 3) (b.drop 14)
  | .dod96 => .reservedDod96 (field b 8 3) (field b 11 3) (b.drop 14)
  | .gln96 => .reservedGln96 (field b 8 3) (field b 11 3) (b.drop 14)
  | .grai96 => .reservedGrai96 (field b 8 3) (field b 11 3) (b.drop 14)
  | .giai96 => .reservedGiai96 (field b 8 3) (field b 11 3) (b.drop 14)
  | .gid96 => .reservedGid96 (field b 8 3) (field b 11 3) (b.drop 14)

/-- R115, R116: the row of an image given as bits, in the decoder's order of checks. -/
def decodeImageBits (b : BitSeq) : Except DecodeError Instr :=
  if b.length < 8 then .error .imageTooShort else
  match headerTable (field b 0 8).toNat with
  | none => .ok (.unsupported (field b 0 8) (b.drop 8))
  | some variant =>
    if b.length < 14 then .error .imageTooShort else
    if (field b 11 3).toNat = 7 then .ok (.partition7 (field b 0 8) (field b 8 3) (b.drop 14)) else
    if b.length < 58 then .error .imageTooShort else
    match variant with
    | .sgtin96 =>
      if b.length = 96 then .ok (decodeSgtin96 b (field b 11 3).toNat) else .error .sgtin96LengthNot96
    | .sgtin198 => .ok (decodeSgtin198 b (field b 11 3).toNat)
    | .sscc96 => if b.length < 72 then .error .imageTooShort else .ok (decodeSscc96 b (field b 11 3).toNat)
    | .reserved name => .ok (decodeReserved name b)

/-- R36, R50, R105: an image as the host presents it. The whole string is converted first. -/
def decodeImage (hex : Str) : Except DecodeError Instr :=
  match hexToBits hex with
  | none => .error .malformedHex
  | some b => decodeImageBits b

/-- R39: the operation a request selects, with the operands it names. -/
def decodeCommand (r : Request) : Except DecodeError Instr :=
  match r.op.toNat with
  | 1 => .ok (.encSgtin96 r.filter r.partition r.companyPrefix r.itemReference r.serial)
  | 2 => .ok (.encSgtin198 r.filter r.partition r.companyPrefix r.itemReference r.serial)
  | 3 => .ok (.encSscc96 r.filter r.partition r.companyPrefix r.extension r.serial)
  | 4 => .ok (.reserSgtin96 r.image r.serial)
  | 5 => .ok (.dec r.image)
  | 6 => .ok (.decGtin r.image)
  | 7 => .ok (.decSscc r.image)
  | 8 => .ok (.decSerial r.image)
  | 9 => .ok (.chkDigit r.digits)
  | 10 => .ok (.chkValid r.digits)
  | _ => .error .reservedSelect

/-- Decoding of anything a host can present. -/
def decode (w : Presented) : Except DecodeError Instr :=
  match w with
  | .command r => decodeCommand r
  | .image hex => decodeImage hex

/-- R23, R33, R34: header, filter, partition, company prefix, item reference and the rest, as concatenated bits. -/
def sgtinBits {c r : Nat} (header p : Nat) (f : BitVec 3) (cp : BitVec c) (ref : BitVec r) (rest : BitSeq) : BitSeq :=
  toBits header 8 ++ (toBits f.toNat 3 ++ (toBits p 3 ++ (toBits cp.toNat c ++ (toBits ref.toNat r ++ rest))))

/-- R30: header, filter, partition and the rest. -/
def headBits (header : Nat) (f p : BitVec 3) (rest : BitSeq) : BitSeq :=
  toBits header 8 ++ (toBits f.toNat 3 ++ (toBits p.toNat 3 ++ rest))

/-- The bits of an image row's instruction; an operation has none. -/
def imageBits : Instr → BitSeq
  | .sgtin96P0 f cp ir serial => sgtinBits 48 0 f cp ir (toBits serial.toNat 38)
  | .sgtin96P1 f cp ir serial => sgtinBits 48 1 f cp ir (toBits serial.toNat 38)
  | .sgtin96P2 f cp ir serial => sgtinBits 48 2 f cp ir (toBits serial.toNat 38)
  | .sgtin96P3 f cp ir serial => sgtinBits 48 3 f cp ir (toBits serial.toNat 38)
  | .sgtin96P4 f cp ir serial => sgtinBits 48 4 f cp ir (toBits serial.toNat 38)
  | .sgtin96P5 f cp ir serial => sgtinBits 48 5 f cp ir (toBits serial.toNat 38)
  | .sgtin96P6 f cp ir serial => sgtinBits 48 6 f cp ir (toBits serial.toNat 38)
  | .sgtin198P0 f cp ir serial => sgtinBits 54 0 f cp ir serial
  | .sgtin198P1 f cp ir serial => sgtinBits 54 1 f cp ir serial
  | .sgtin198P2 f cp ir serial => sgtinBits 54 2 f cp ir serial
  | .sgtin198P3 f cp ir serial => sgtinBits 54 3 f cp ir serial
  | .sgtin198P4 f cp ir serial => sgtinBits 54 4 f cp ir serial
  | .sgtin198P5 f cp ir serial => sgtinBits 54 5 f cp ir serial
  | .sgtin198P6 f cp ir serial => sgtinBits 54 6 f cp ir serial
  | .sscc96P0 f cp sr unallocated => sgtinBits 49 0 f cp sr unallocated
  | .sscc96P1 f cp sr unallocated => sgtinBits 49 1 f cp sr unallocated
  | .sscc96P2 f cp sr unallocated => sgtinBits 49 2 f cp sr unallocated
  | .sscc96P3 f cp sr unallocated => sgtinBits 49 3 f cp sr unallocated
  | .sscc96P4 f cp sr unallocated => sgtinBits 49 4 f cp sr unallocated
  | .sscc96P5 f cp sr unallocated => sgtinBits 49 5 f cp sr unallocated
  | .sscc96P6 f cp sr unallocated => sgtinBits 49 6 f cp sr unallocated
  | .reservedDod64 f p rest => headBits 206 f p rest
  | .reservedDod96 f p rest => headBits 207 f p rest
  | .reservedGln96 f p rest => headBits 50 f p rest
  | .reservedGrai96 f p rest => headBits 51 f p rest
  | .reservedGiai96 f p rest => headBits 52 f p rest
  | .reservedGid96 f p rest => headBits 53 f p rest
  | .unsupported header rest => toBits header.toNat 8 ++ rest
  | .partition7 header f rest => headBits header.toNat f 7#3 rest
  | .encSgtin96 _ _ _ _ _ => []
  | .encSgtin198 _ _ _ _ _ => []
  | .encSscc96 _ _ _ _ _ => []
  | .reserSgtin96 _ _ => []
  | .dec _ => []
  | .decGtin _ => []
  | .decSscc _ => []
  | .decSerial _ => []
  | .chkDigit _ => []
  | .chkValid _ => []

/-- The encoder: the word a host presents for an instruction (R39, R41 for operations; R36 for images). -/
def encode (i : Instr) : Presented :=
  match i with
  | .encSgtin96 f p cp ir ser =>
    .command { op := 1, filter := f, partition := p, companyPrefix := cp, itemReference := ir, serial := ser }
  | .encSgtin198 f p cp ir ser =>
    .command { op := 2, filter := f, partition := p, companyPrefix := cp, itemReference := ir, serial := ser }
  | .encSscc96 f p cp ext ser =>
    .command { op := 3, filter := f, partition := p, companyPrefix := cp, extension := ext, serial := ser }
  | .reserSgtin96 image ser => .command { op := 4, image := image, serial := ser }
  | .dec image => .command { op := 5, image := image }
  | .decGtin image => .command { op := 6, image := image }
  | .decSscc image => .command { op := 7, image := image }
  | .decSerial image => .command { op := 8, image := image }
  | .chkDigit digits => .command { op := 9, digits := digits }
  | .chkValid digits => .command { op := 10, digits := digits }
  | .sgtin96P0 a b c d => .image (bitsToHex (imageBits (.sgtin96P0 a b c d)))
  | .sgtin96P1 a b c d => .image (bitsToHex (imageBits (.sgtin96P1 a b c d)))
  | .sgtin96P2 a b c d => .image (bitsToHex (imageBits (.sgtin96P2 a b c d)))
  | .sgtin96P3 a b c d => .image (bitsToHex (imageBits (.sgtin96P3 a b c d)))
  | .sgtin96P4 a b c d => .image (bitsToHex (imageBits (.sgtin96P4 a b c d)))
  | .sgtin96P5 a b c d => .image (bitsToHex (imageBits (.sgtin96P5 a b c d)))
  | .sgtin96P6 a b c d => .image (bitsToHex (imageBits (.sgtin96P6 a b c d)))
  | .sgtin198P0 a b c d => .image (bitsToHex (imageBits (.sgtin198P0 a b c d)))
  | .sgtin198P1 a b c d => .image (bitsToHex (imageBits (.sgtin198P1 a b c d)))
  | .sgtin198P2 a b c d => .image (bitsToHex (imageBits (.sgtin198P2 a b c d)))
  | .sgtin198P3 a b c d => .image (bitsToHex (imageBits (.sgtin198P3 a b c d)))
  | .sgtin198P4 a b c d => .image (bitsToHex (imageBits (.sgtin198P4 a b c d)))
  | .sgtin198P5 a b c d => .image (bitsToHex (imageBits (.sgtin198P5 a b c d)))
  | .sgtin198P6 a b c d => .image (bitsToHex (imageBits (.sgtin198P6 a b c d)))
  | .sscc96P0 a b c d => .image (bitsToHex (imageBits (.sscc96P0 a b c d)))
  | .sscc96P1 a b c d => .image (bitsToHex (imageBits (.sscc96P1 a b c d)))
  | .sscc96P2 a b c d => .image (bitsToHex (imageBits (.sscc96P2 a b c d)))
  | .sscc96P3 a b c d => .image (bitsToHex (imageBits (.sscc96P3 a b c d)))
  | .sscc96P4 a b c d => .image (bitsToHex (imageBits (.sscc96P4 a b c d)))
  | .sscc96P5 a b c d => .image (bitsToHex (imageBits (.sscc96P5 a b c d)))
  | .sscc96P6 a b c d => .image (bitsToHex (imageBits (.sscc96P6 a b c d)))
  | .reservedDod64 a b c => .image (bitsToHex (imageBits (.reservedDod64 a b c)))
  | .reservedDod96 a b c => .image (bitsToHex (imageBits (.reservedDod96 a b c)))
  | .reservedGln96 a b c => .image (bitsToHex (imageBits (.reservedGln96 a b c)))
  | .reservedGrai96 a b c => .image (bitsToHex (imageBits (.reservedGrai96 a b c)))
  | .reservedGiai96 a b c => .image (bitsToHex (imageBits (.reservedGiai96 a b c)))
  | .reservedGid96 a b c => .image (bitsToHex (imageBits (.reservedGid96 a b c)))
  | .unsupported a b => .image (bitsToHex (imageBits (.unsupported a b)))
  | .partition7 a b c => .image (bitsToHex (imageBits (.partition7 a b c)))

/-- Byte `k` of a table word: bits `8k + 7` to `8k`. -/
def tableByte (w k : Nat) : Nat := w / 256 ^ k % 256

/-- How many bytes the table word's image has: the contract length of its header (R36, 12 bytes or 25), or the word's own
where that is longer. -/
def tableBytes (nbits w : Nat) : Nat := max (if tableByte w 0 = 54 then 25 else 12) ((nbits + 7) / 8)

/-- The two hexadecimal characters of a byte. -/
def byteHex (b : Nat) : Str := [hexChar (b / 16), hexChar (b % 16)]

/-- What a host presents for a word of spec/opcode_table.json: a word with no bit above `op[3:0]` is an operation (format
CMD) with zero operands, any other is a tag image, its first byte the header. The zero operand of a string port is the
one character `'0'`, of the image port 24 of them (log entry 5). -/
def tableWord (nbits w : Nat) : Presented :=
  if w < 16 then
    .command { op := BitVec.ofNat 4 w, filter := 0, partition := 0, companyPrefix := str "0", itemReference := str "0",
               serial := str "0", extension := str "0", image := List.replicate 24 48#8, digits := str "0" }
  else .image ((List.range (tableBytes nbits w)).flatMap fun k => byteHex (tableByte w k))

/-- The instruction the decoder reads from a word of spec/opcode_table.json. -/
def decodeTableWord (nbits w : Nat) : Option Instr := (decode (tableWord nbits w)).toOption

end Sys2Proof
end

