-- ==== Sys2Proof/Machine/State.lean ====
section
/-! DEFINITION. The state: the request side, the response port (rule R14) with the field map (rule R15), and the trace that
rule R10 allows. The block has no register, no memory, no program counter and no flag (R10, R11, R17, R19). -/

namespace Sys2Proof.Machine

open Sys2Proof

/-- R130: the eleven values of `rsp.status`. -/
inductive Status where
  | ok
  | malformedHex
  | unsupportedHeader
  | invalidPartition
  | filterOutOfRange
  | companyPrefixTooLong
  | itemReferenceTooLong
  | serialNotNumeric
  | serialOutOfRange
  | serialTooLong
  | notImplemented
  deriving DecidableEq, Repr

/-- R130: the ten errors `raise` can name; NotImplemented carries the reserved variant (R4, R137). -/
inductive Error where
  | malformedHex
  | unsupportedHeader
  | invalidPartition
  | filterOutOfRange
  | companyPrefixTooLong
  | itemReferenceTooLong
  | serialNotNumeric
  | serialOutOfRange
  | serialTooLong
  | notImplemented (name : ReservedName)
  deriving DecidableEq, Repr

/-- Stops with a fault: none exists. Every transaction ends with a response and "there is no hang, no stuck state" (R155),
so the type is empty. Safe: nothing can stop this way. -/
inductive Fault where
  deriving DecidableEq, Repr

/-- The `refuse(reason)` of rule R4: the spec gives the transaction no meaning (93_implementation_defined.md). Log entry 8.
Every one is safe: the model stops where the hardware answers something the spec does not say. -/
inductive Refusal where
  /-- An instruction with no meaning in the model: exec's own refused arms. Safe. -/
  | notModelled (mnemonic : String)
  /-- U1, raised by ENC.SGTIN96, ENC.SGTIN198, ENC.SSCC96: a decimal operand is not a digit string. Safe. -/
  | operandNotNumeric
  /-- U2, raised by CHK.DIGIT: a non-empty payload that is not a digit string. Safe. -/
  | payloadNotNumeric
  /-- U3, raised by ENC.SGTIN198: a serial character of code 128 or more. Safe. -/
  | charNot7Bit
  /-- U4, raised by CHK.DIGIT and CHK.VALID (R76, R77), and by the derivations gtin and sscc, which cannot reach it (log
  entry 7): a check digit of a payload whose weighted sum exceeds 1000. Safe. -/
  | checksumSumOver1000
  /-- U5, raised by DEC, DEC.GTIN, DEC.SSCC, DEC.SERIAL, RESER.SGTIN96 and a presented image: too few bits for the
  next field. Safe. -/
  | imageTooShort
  /-- U5, raised by the same six: an image of header 48 that is not 96 bits long. Safe. -/
  | sgtin96LengthNot96
  /-- U6, raised by ENC.SSCC96: the extension is not exactly one character. Safe. -/
  | extensionNotOneChar
  /-- U7, raised by ENC.SSCC96: the serial-reference number does not fit its field. Safe. -/
  | serialReferenceOverflow
  /-- U8, raised by ENC.SGTIN96 and RESER.SGTIN96: a sign followed by digits. Safe. -/
  | signedSerial
  /-- U10, C2, raised by ENC.SGTIN96 and RESER.SGTIN96: the serial 2^38, accepted by the validation and too wide for
  the field. Safe. -/
  | serialNeeds39Bits
  /-- U13, raised by RESER.SGTIN96: the image decodes as another variant. Safe. -/
  | reserializeNotSgtin96
  /-- U14, raised by a request whose `op` is 0 or 11 to 15. Safe. -/
  | reservedSelect
  deriving DecidableEq, Repr

/-- 00_scope.md glossary, R15: the ten field kinds of a field map. -/
inductive TagField where
  | header | filter | partition | companyPrefix | itemReference | serialReference | serialNumber | unallocated
  | individualAssetReference | cageCode
  deriving DecidableEq, Repr

/-- R15, D10: a value of a field map: a number (Header, Partition), a string, or the unallocated bits. -/
inductive FieldValue where
  | number (n : Nat)
  | text (s : Str)
  | bits (b : BitSeq)
  deriving DecidableEq, Repr

/-- R15, D10: the field map, a record with optional members (log entry 11). -/
structure DecodedTag where
  variant : EncodingVariant
  header : Nat
  filter : Str
  partition : Nat
  companyPrefix : Str
  itemReference : Option Str := none
  serialReference : Option Str := none
  serialNumber : Option Str := none
  unallocated : Option BitSeq := none
  individualAssetReference : Option Str := none
  cageCode : Option Str := none
  deriving DecidableEq, Repr

/-- R14: a response; a result field is absent unless the operation set it with status OK, `variant` unless the status is
NotImplemented (log entry 11). -/
structure Response where
  status : Status
  variant : Option EncodingVariant := none
  image : Option Str := none
  tag : Option DecodedTag := none
  present : Option Bool := none
  text : Option Str := none
  digit : Option Nat := none
  valid : Option Bool := none
  deriving DecidableEq, Repr

/-- R10, R12: a transaction that has ended: one request and the one response to it. -/
structure Transaction where
  request : Presented
  response : Response
  deriving DecidableEq, Repr

/-- The machine's state.
`requests`: what the host has ready, oldest first (R12, R13; log entry 1).
`rsp`: the response port, no value before the first transaction ends (R14, R18). How long a response stays on it the spec
does not say; DESIGN CHOICE: until the next response or a reset (log entry 22).
`history`: the transactions that have ended, oldest first, which no rule reads (R10; log entry 2). -/
structure State where
  requests : List Presented
  rsp : Option Response
  history : List Transaction
  deriving DecidableEq, Repr

/-- R18, R150: after reset the block is idle, nothing is presented and the response port has no value. -/
def State.reset : State := { requests := [], rsp := none, history := [] }

/-- What a meaning answers. -/
abbrev Answer := Host.Outcome State Fault Refusal

/-- R4: how a rule's pseudocode can end a transaction before its last step. -/
inductive Stop where
  | raise (e : Error)
  | refuse (r : Refusal)
  deriving DecidableEq, Repr

/-- A value a rule computes, or the first `raise` or `refuse` it reaches (R4, R132). -/
abbrev Checked := Except Stop

end Sys2Proof.Machine
end

