-- ==== Sys2Proof/Machine/Checksum.lean ====
section
/-! DEFINITION. The Mod-10 Checksum Engine (43_checksum.md, rules R75, R77, R78). -/

namespace Sys2Proof

open Sys2Proof.Machine

/-- R75: the weighted sum of digits given rightmost first, the first one with weight `w`; weights alternate 3, 1. -/
def weightedSumFrom : Nat → Str → Nat
  | _, [] => 0
  | w, c :: cs => digitVal c * w + weightedSumFrom (4 - w) cs

/-- R75: scanning the digit string from rightmost to leftmost, the rightmost digit has weight 3. -/
def weightedSum (d : Str) : Nat := weightedSumFrom 3 d.reverse

/-- R75: the check digit `(1000 − sum) mod 10`, "defined when weightedSum(d) <= 1000". R78: above that sum "this spec gives no
value", and the computation is refused (U4; R76, R77). -/
def weightedChecksum (d : Str) : Checked Nat :=
  if weightedSum d ≤ 1000 then .ok ((1000 - weightedSum d) % 10) else .error (.refuse .checksumSumOver1000)

/-- R77: `validate`, and through R123 `isValidGtin`: false for the empty and the non-numeric string, else whether the last
digit is the check digit of the digits before it; refused where that check digit is. -/
def validate (s : Str) : Checked Bool :=
  match isDigitStr s, s.getLast? with
  | true, some c => (weightedChecksum s.dropLast).map fun v => v == digitVal c
  | _, _ => .ok false

/-- R123: `isValidGtin` delegates to the Checksum Engine's `validate`. -/
def isValidGtin (candidate : Str) : Checked Bool := validate candidate

end Sys2Proof
end

