-- ==== Sys2Proof/Machine/Alnum7.lean ====
section
/-! DEFINITION. The 7-bit alphanumeric sub-codec (42_alnum7.md, rules R70, R71, R73). -/

namespace Sys2Proof

/-- R70, R73: each character's code as a 7-bit block, in input order; none where a character's code is 128 or more,
to which the spec gives no value (refuse CharNot7Bit). -/
def encode7bit : Str → Option BitSeq
  | [] => some []
  | c :: cs => if 128 ≤ c.toNat then none else (encode7bit cs).map fun b => toBits c.toNat 7 ++ b

/-- R71: groups of 7 bits, the last one possibly shorter; a group of value 9 or less is omitted. -/
def decode7bit (b : BitSeq) : Str :=
  (((groupsOf 7 b).map bitsToUnsigned).filter fun v => 9 < v).map fun v => BitVec.ofNat 8 v

end Sys2Proof
end

