-- ==== Sys2Proof/Machine/Flags.lean ====
section
/-! DEFINITION. Status values. The block has no flags or condition codes: "the nearest thing to a flag is the `status` field of
a response" (rule R17); this file holds all there is to say of it. -/

namespace Sys2Proof.Machine

/-- R130: the status a raised error ends the transaction with. -/
def Error.status : Error → Status
  | .malformedHex => .malformedHex
  | .unsupportedHeader => .unsupportedHeader
  | .invalidPartition => .invalidPartition
  | .filterOutOfRange => .filterOutOfRange
  | .companyPrefixTooLong => .companyPrefixTooLong
  | .itemReferenceTooLong => .itemReferenceTooLong
  | .serialNotNumeric => .serialNotNumeric
  | .serialOutOfRange => .serialOutOfRange
  | .serialTooLong => .serialTooLong
  | .notImplemented _ => .notImplemented

/-- R137: the reserved variant NotImplemented carries; "with every other status `rsp.variant` has no meaning". -/
def Error.variant : Error → Option EncodingVariant
  | .notImplemented name => some (.reserved name)
  | _ => none

/-- R130: the numbers of the statuses, the spec's own (decision D4; log entry 19). -/
def Status.code : Status → Nat
  | .ok => 0
  | .malformedHex => 1
  | .unsupportedHeader => 2
  | .invalidPartition => 3
  | .filterOutOfRange => 4
  | .companyPrefixTooLong => 5
  | .itemReferenceTooLong => 6
  | .serialNotNumeric => 7
  | .serialOutOfRange => 8
  | .serialTooLong => 9
  | .notImplemented => 10

end Sys2Proof.Machine
end

