-- ==== Sys2Proof/Machine/Ops.lean ====
section
/-! DEFINITION. The shared operations: ending a transaction (a response delivered, an error raised, a refusal), the response of
each kind of result, and the field map's makers and reader. There is no memory to operate on (rule R19). -/

namespace Sys2Proof.Machine

open Sys2Proof

/-- R12, R14: the response of the transaction appears on the port; nothing else changes. -/
def State.respond (s : State) (r : Response) : State := { s with rsp := some r }

/-- R133: the response of an error: its status, the variant with NotImplemented, no result field. -/
def Response.ofError (e : Error) : Response := { status := e.status, variant := e.variant }

/-- R14: a tag image, status OK. -/
def Response.ofImage (h : Str) : Response := { status := .ok, image := some h }

/-- R14: a field map, status OK. -/
def Response.ofTag (t : DecodedTag) : Response := { status := .ok, tag := some t }

/-- R124, R125: `deliver`: None is `present = 0` with status OK and no text. -/
def Response.ofDerived (r : Option Str) : Response := { status := .ok, present := some r.isSome, text := r }

/-- R76: a check digit, status OK. -/
def Response.ofDigit (d : Nat) : Response := { status := .ok, digit := some d }

/-- R77: the predicate's answer, status OK. -/
def Response.ofValid (v : Bool) : Response := { status := .ok, valid := some v }

/-- R133: `raise E`, the one operation by which an error is taken: the transaction ends with that status, no result field is
set, no state is saved, no mode changes and control goes nowhere. R134: there is no return from it; the next
transaction is handled as if the failed one had not happened. -/
def raise (e : Error) (s : State) : Answer := .next (s.respond (Response.ofError e))

/-- R4: `refuse(reason)`: the spec gives the transaction no meaning. -/
def refuse (r : Refusal) : Answer := .refused r

/-- R4: a rule's outcome ends the transaction. -/
def finish (r : Checked Response) (s : State) : Answer :=
  match r with
  | .ok rsp => .next (s.respond rsp)
  | .error (.raise e) => raise e s
  | .error (.refuse x) => refuse x

/-- R115: the transaction ends with a field map. -/
def answerTag (t : DecodedTag) (s : State) : Answer := finish (.ok (Response.ofTag t)) s

/-- R109, R110, R113, R57: a numeric field as a decimal string of at least `n` digits. -/
def rendered (v n : Nat) : Str := padLeftDigits (dec v) n

/-- R111, R117: the field map of an SGTIN-96 image with these field values. -/
def sgtin96Tag (p filter companyPrefix itemReference serial : Nat) : DecodedTag :=
  { variant := .sgtin96, header := 48, filter := dec filter, partition := p,
    companyPrefix := rendered companyPrefix (cpd p), itemReference := some (rendered itemReference (ird p)),
    serialNumber := some (rendered serial 12) }

/-- R114, R117: the field map of an SGTIN-198 image; the serial is the 7-bit-decoded rest, stored as it is. -/
def sgtin198Tag (p filter companyPrefix itemReference : Nat) (rest : BitSeq) : DecodedTag :=
  { variant := .sgtin198, header := 54, filter := dec filter, partition := p,
    companyPrefix := rendered companyPrefix (cpd p), itemReference := some (rendered itemReference (ird p)),
    serialNumber := some (decode7bit rest) }

/-- R113, R117: the field map of an SSCC-96 image; the unallocated bits are recorded unchecked. -/
def sscc96Tag (p filter companyPrefix serialReference : Nat) (unallocated : BitSeq) : DecodedTag :=
  { variant := .sscc96, header := 49, filter := dec filter, partition := p,
    companyPrefix := rendered companyPrefix (cpd p), serialReference := some (rendered serialReference (srd p)),
    unallocated := some unallocated }

/-- R15: reading a field of a field map; none is the reader's error, never a default. -/
def DecodedTag.read (t : DecodedTag) : TagField → Option FieldValue
  | .header => some (.number t.header)
  | .filter => some (.text t.filter)
  | .partition => some (.number t.partition)
  | .companyPrefix => some (.text t.companyPrefix)
  | .itemReference => t.itemReference.map .text
  | .serialReference => t.serialReference.map .text
  | .serialNumber => t.serialNumber.map .text
  | .unallocated => t.unallocated.map .bits
  | .individualAssetReference => t.individualAssetReference.map .text
  | .cageCode => t.cageCode.map .text

/-- R150, R18: reset applied to an idle block: idle, the response port without a value. What the host has ready and the trace
are not the block's (log entry 4). -/
def State.applyReset (s : State) : State := { s with rsp := none }

/-- R150: reset applied while a transaction, that of the oldest presented word, is in progress: the transaction is abandoned
and "gives no response", so the word is gone, the response port has no value and the trace has no entry of it. On an
idle block with nothing presented it is `applyReset`. -/
def State.abandonTransaction (s : State) : State := { s.applyReset with requests := s.requests.tail }

/-- A transaction that has ended goes to the trace (R10; log entry 2). -/
def State.record (s : State) (w : Presented) : State :=
  match s.rsp with
  | some r => { s with history := s.history ++ [⟨w, r⟩] }
  | none => s

end Sys2Proof.Machine
end

