-- ==== Sys2Proof/Machine/CheckDigit.lean ====
section
/-! DEFINITION. The checksum operations: CHK.DIGIT and CHK.VALID (43_checksum.md, rules R76, R77, R78). -/

namespace Sys2Proof.Machine

open Sys2Proof

/-- R76: the check digit of a payload; a non-empty payload that is not a digit string is refused (U2), and then one whose
weighted sum exceeds 1000 (U4). -/
def payloadDigit (d : Str) : Checked Nat :=
  if d.isEmpty || isDigitStr d then weightedChecksum d else .error (.refuse .payloadNotNumeric)

/-- R76, CHK.DIGIT. -/
def execChkDigit (d : Str) (s : State) : Answer := finish ((payloadDigit d).map Response.ofDigit) s

/-- R77, CHK.VALID: no error, ever. -/
def execChkValid (d : Str) (s : State) : Answer := finish ((validate d).map Response.ofValid) s

end Sys2Proof.Machine
end

