-- ==== Sys2Proof/Machine/Decoder.lean ====
section
/-! DEFINITION. The Tag Decoder: DEC (45_decoder.md, rules R105 to R115). `b` is the image as bits, `off` the cursor of rule
R11, which only moves forward. -/

namespace Sys2Proof.Machine

open Sys2Proof

/-- R22, R116: the number in the `w` bits at the cursor; refused where the image is too short for them. -/
def readNumber (b : BitSeq) (off w : Nat) : Checked Nat :=
  if b.length < off + w then .error (.refuse .imageTooShort) else .ok (bitsToUnsigned (takeBits b off w))

/-- R106: header resolution. -/
def resolveHeader (hdr : Nat) : Checked EncodingVariant :=
  match headerTable hdr with
  | none => .error (.raise .unsupportedHeader)
  | some v => .ok v

/-- R108: the partition entry of the 3-bit partition field; 7 is InvalidPartition. -/
def resolvePartition (p : Nat) : Checked PartitionEntry :=
  match partitionEntry p with
  | none => .error (.raise .invalidPartition)
  | some e => .ok e

/-- R110, R116: the item-reference step, performed for every variant but Sscc96. -/
def readItemReference (variant : EncodingVariant) (b : BitSeq) (off w : Nat) : Checked Nat :=
  if variant = .sscc96 then .ok 0 else readNumber b off w

/-- R111 to R114, step 5: variant dispatch for the remaining bits. `off` is the cursor after the company prefix. -/
def decodeRest (variant : EncodingVariant) (b : BitSeq) (e : PartitionEntry) (filter p cp ir off : Nat) :
    Checked DecodedTag :=
  match variant with
  | .sgtin96 =>
    if b.length - (off + e.irw) ≠ 38 then .error (.refuse .sgtin96LengthNot96)
    else .ok (sgtin96Tag p filter cp ir (bitsToUnsigned (b.drop (off + e.irw))))
  | .sgtin198 => .ok (sgtin198Tag p filter cp ir (b.drop (off + e.irw)))
  | .sscc96 => do
    let sr ← readNumber b off e.srw
    return sscc96Tag p filter cp sr (b.drop (off + e.srw))
  | .reserved name => .error (.raise (.notImplemented name))

/-- R115: DEC. -/
def decodeTag (image : Str) : Checked DecodedTag :=
  match hexToBits image with
  | none => .error (.raise .malformedHex)
  | some b => do
    let hdr ← readNumber b 0 8
    let variant ← resolveHeader hdr
    let filter ← readNumber b 8 3
    let p ← readNumber b 11 3
    let e ← resolvePartition p
    let cp ← readNumber b 14 e.cpw
    let ir ← readItemReference variant b (14 + e.cpw) e.irw
    decodeRest variant b e filter p cp ir (14 + e.cpw)

/-- R115, DEC. -/
def execDec (image : Str) (s : State) : Answer := finish ((decodeTag image).map Response.ofTag) s

end Sys2Proof.Machine
end

