-- ==== Sys2Proof/Machine/Operands.lean ====
section
/-! DEFINITION. The operand forms and their checks (rules R40, R85 to R90, R92, R94), each raising or refusing in its place. -/

namespace Sys2Proof.Machine

open Sys2Proof

/-- R86, step 1: "filter must be ≤ 7". -/
def checkFilter (filter : Nat) : Checked Unit :=
  if filter > 7 then .error (.raise .filterOutOfRange) else .ok ()

/-- R87, step 2: the partition resolves in the Partition Table. -/
def checkPartition (p : Nat) : Checked PartitionEntry :=
  match partitionEntry p with
  | none => .error (.raise .invalidPartition)
  | some e => .ok e

/-- R56, U1: a decimal operand for which the source names no error. -/
def decimalOperand (s : Str) : Checked Nat :=
  if isDigitStr s then .ok (parseDec s) else .error (.refuse .operandNotNumeric)

/-- R88, R89: the bit-length of the numeric value, not the digit count, is held against the width. -/
def checkWidth (v w : Nat) (e : Error) : Checked Nat := if bitlen v > w then .error (.raise e) else .ok v

/-- R88, step 3. -/
def checkCompanyPrefix (e : PartitionEntry) (s : Str) : Checked Nat := do
  checkWidth (← decimalOperand s) e.cpw .companyPrefixTooLong

/-- R89, step 4 (ENC.SGTIN96 and ENC.SGTIN198 only). -/
def checkItemReference (e : PartitionEntry) (s : Str) : Checked Nat := do
  checkWidth (← decimalOperand s) e.irw .itemReferenceTooLong

/-- R90, U8: `'+'` or `'-'` followed by a digit string. -/
def isSignedDigitStr : Str → Bool
  | [] => false
  | c :: cs => (c == 43#8 || c == 45#8) && isDigitStr cs

/-- R90: the greatest SGTIN-96 serial the validation accepts, 2^38. -/
def serialBound : Nat := 274877906944

/-- R90, step 5 for SGTIN-96. The bound is inclusive. -/
def checkSerial96 (s : Str) : Checked Nat :=
  if isDigitStr s then
    if parseDec s > serialBound then .error (.raise .serialOutOfRange) else .ok (parseDec s)
  else if isSignedDigitStr s then .error (.refuse .signedSerial)
  else .error (.raise .serialNotNumeric)

/-- R92, step 5 for SGTIN-198: the length first, then the packing, then zero bits up to 140. -/
def serialField198 (s : Str) : Checked BitSeq :=
  if s.length > 20 then .error (.raise .serialTooLong)
  else match encode7bit s with
    | none => .error (.refuse .charNot7Bit)
    | some b => .ok (padRight b 140)

/-- R94: the SSCC-96 serial-reference field: the extension character and the padded serial reference as one number. -/
def serialRefField (p : Nat) (e : PartitionEntry) (extension serial : Str) : Checked BitSeq := do
  if extension.length ≠ 1 then throw (.refuse .extensionNotOneChar)
  let v ← decimalOperand (extension ++ padLeftDigits serial (srpad p))
  if v ≥ 2 ^ e.srw then throw (.refuse .serialReferenceOverflow)
  return toBits v e.srw

end Sys2Proof.Machine
end

