-- ==== Sys2Proof/Machine/Encoder.lean ====
section
/-! DEFINITION. The Tag Encoder: ENC.SGTIN96, ENC.SGTIN198, ENC.SSCC96, RESER.SGTIN96 (44_encoder.md, rules R91 to R96). -/

namespace Sys2Proof.Machine

open Sys2Proof

/-- R30, R23: the fields every image begins with. -/
def imageHead (header filter p : Nat) : BitSeq := toBits header 8 ++ toBits filter 3 ++ toBits p 3

/-- R91: the image of ENC.SGTIN96, its checks in order. -/
def encodeSgtin96 (filter p : Nat) (companyPrefix itemReference serial : Str) : Checked Str := do
  checkFilter filter
  let e ← checkPartition p
  let cp ← checkCompanyPrefix e companyPrefix
  let ir ← checkItemReference e itemReference
  let ser ← checkSerial96 serial
  if ser = serialBound then throw (.refuse .serialNeeds39Bits)
  return bitsToHex (imageHead 48 filter p ++ toBits cp e.cpw ++ toBits ir e.irw ++ toBits ser 38)

/-- R93: the image of ENC.SGTIN198, its checks in order. -/
def encodeSgtin198 (filter p : Nat) (companyPrefix itemReference serial : Str) : Checked Str := do
  checkFilter filter
  let e ← checkPartition p
  let cp ← checkCompanyPrefix e companyPrefix
  let ir ← checkItemReference e itemReference
  let sf ← serialField198 serial
  return bitsToHex (imageHead 54 filter p ++ toBits cp e.cpw ++ toBits ir e.irw ++ sf)

/-- R95: the image of ENC.SSCC96, its checks in order. No item reference, no check digit (C4, D15). -/
def encodeSscc96 (filter p : Nat) (companyPrefix extension serial : Str) : Checked Str := do
  checkFilter filter
  let e ← checkPartition p
  let cp ← checkCompanyPrefix e companyPrefix
  let srf ← serialRefField p e extension serial
  return bitsToHex (imageHead 49 filter p ++ toBits cp e.cpw ++ srf ++ zeros 24)

/-- R96: decode first, then re-encode with the new serial, through the same two paths. -/
def reserialize (image serial : Str) : Checked Str := do
  let t ← decodeTag image
  if t.header ≠ 48 then throw (.refuse .reserializeNotSgtin96)
  match t.itemReference with
  | none => throw (.refuse .reserializeNotSgtin96)
  | some ir => encodeSgtin96 (parseDec t.filter) t.partition t.companyPrefix ir serial

/-- An operation that ends in an image (R14). -/
def answerImage (r : Checked Str) (s : State) : Answer := finish (r.map Response.ofImage) s

/-- R91, ENC.SGTIN96. -/
def execEncSgtin96 (filter p : Nat) (companyPrefix itemReference serial : Str) (s : State) : Answer :=
  answerImage (encodeSgtin96 filter p companyPrefix itemReference serial) s

/-- R93, ENC.SGTIN198. -/
def execEncSgtin198 (filter p : Nat) (companyPrefix itemReference serial : Str) (s : State) : Answer :=
  answerImage (encodeSgtin198 filter p companyPrefix itemReference serial) s

/-- R95, ENC.SSCC96. -/
def execEncSscc96 (filter p : Nat) (companyPrefix extension serial : Str) (s : State) : Answer :=
  answerImage (encodeSscc96 filter p companyPrefix extension serial) s

/-- R96, RESER.SGTIN96. -/
def execReserSgtin96 (image serial : Str) (s : State) : Answer := answerImage (reserialize image serial) s

end Sys2Proof.Machine
end

