-- ==== Sys2Proof/Machine/Facade.lean ====
section
/-! DEFINITION. The identifier derivations: DEC.GTIN, DEC.SSCC, DEC.SERIAL (46_facade.md, rules R120 to R125). -/

namespace Sys2Proof.Machine

open Sys2Proof

/-- R120, R121: `ref[0:1] ++ companyPrefix ++ ref[1:]`, then the check digit of that string. It is refused where the check
digit is (U4), which no decoded field map reaches (log entry 7). -/
def withCheckDigit (ref companyPrefix : Str) : Checked Str :=
  let g := ref.take 1 ++ companyPrefix ++ ref.drop 1
  (weightedChecksum g).map fun v => g ++ [digitChar v]

/-- The identifier of a reference the field map may hold: none where it is absent (log entry 16). -/
def identifier (ref : Option Str) (companyPrefix : Str) : Checked (Option Str) :=
  match ref with
  | none => .ok none
  | some r => (withCheckDigit r companyPrefix).map some

/-- R120: `gtin`, only for Sgtin96 and Sgtin198. -/
def gtin (t : DecodedTag) : Checked (Option Str) :=
  if t.header = 48 ∨ t.header = 54 then identifier t.itemReference t.companyPrefix else .ok none

/-- R121: `sscc`, only for Sscc96. -/
def sscc (t : DecodedTag) : Checked (Option Str) :=
  if t.header = 49 then identifier t.serialReference t.companyPrefix else .ok none

/-- R122: `serialNumber`: the SerialNumber field for Sgtin96 and Sgtin198, the whole SerialReference field for Sscc96. -/
def serialNumber (t : DecodedTag) : Option Str :=
  if t.header = 48 ∨ t.header = 54 then t.serialNumber else if t.header = 49 then t.serialReference else none

/-- R124: decode, derive, deliver. -/
def answerDerived (derive : DecodedTag → Checked (Option Str)) (image : Str) (s : State) : Answer :=
  finish ((decodeTag image >>= derive).map Response.ofDerived) s

/-- R124, DEC.GTIN. -/
def execDecGtin (image : Str) (s : State) : Answer := answerDerived gtin image s

/-- R124, DEC.SSCC. -/
def execDecSscc (image : Str) (s : State) : Answer := answerDerived sscc image s

/-- R124, DEC.SERIAL. -/
def execDecSerial (image : Str) (s : State) : Answer := answerDerived (fun t => .ok (serialNumber t)) image s

end Sys2Proof.Machine
end

