-- ==== Sys2Proof/Machine/TagImages.lean ====
section
/-! DEFINITION. The meanings of the image rows: an image presented by itself is the DEC transaction on it (log entry 3). Each
row's fields have the row's own widths; the answer is the field map of rule R117, or the row's error. -/

namespace Sys2Proof.Machine

/-- R111, row SGTIN-96.P0. -/
def execSgtin96P0 (f : BitVec 3) (cp : BitVec 40) (ir : BitVec 4) (serial : BitVec 38) (s : State) : Answer :=
  answerTag (sgtin96Tag 0 f.toNat cp.toNat ir.toNat serial.toNat) s

/-- R111, row SGTIN-96.P1. -/
def execSgtin96P1 (f : BitVec 3) (cp : BitVec 37) (ir : BitVec 7) (serial : BitVec 38) (s : State) : Answer :=
  answerTag (sgtin96Tag 1 f.toNat cp.toNat ir.toNat serial.toNat) s

/-- R111, row SGTIN-96.P2. -/
def execSgtin96P2 (f : BitVec 3) (cp : BitVec 34) (ir : BitVec 10) (serial : BitVec 38) (s : State) : Answer :=
  answerTag (sgtin96Tag 2 f.toNat cp.toNat ir.toNat serial.toNat) s

/-- R111, row SGTIN-96.P3. -/
def execSgtin96P3 (f : BitVec 3) (cp : BitVec 30) (ir : BitVec 14) (serial : BitVec 38) (s : State) : Answer :=
  answerTag (sgtin96Tag 3 f.toNat cp.toNat ir.toNat serial.toNat) s

/-- R111, row SGTIN-96.P4. -/
def execSgtin96P4 (f : BitVec 3) (cp : BitVec 27) (ir : BitVec 17) (serial : BitVec 38) (s : State) : Answer :=
  answerTag (sgtin96Tag 4 f.toNat cp.toNat ir.toNat serial.toNat) s

/-- R111, row SGTIN-96.P5. -/
def execSgtin96P5 (f : BitVec 3) (cp : BitVec 24) (ir : BitVec 20) (serial : BitVec 38) (s : State) : Answer :=
  answerTag (sgtin96Tag 5 f.toNat cp.toNat ir.toNat serial.toNat) s

/-- R111, row SGTIN-96.P6. -/
def execSgtin96P6 (f : BitVec 3) (cp : BitVec 20) (ir : BitVec 24) (serial : BitVec 38) (s : State) : Answer :=
  answerTag (sgtin96Tag 6 f.toNat cp.toNat ir.toNat serial.toNat) s

/-- R114, row SGTIN-198.P0. -/
def execSgtin198P0 (f : BitVec 3) (cp : BitVec 40) (ir : BitVec 4) (serial : BitSeq) (s : State) : Answer :=
  answerTag (sgtin198Tag 0 f.toNat cp.toNat ir.toNat serial) s

/-- R114, row SGTIN-198.P1. -/
def execSgtin198P1 (f : BitVec 3) (cp : BitVec 37) (ir : BitVec 7) (serial : BitSeq) (s : State) : Answer :=
  answerTag (sgtin198Tag 1 f.toNat cp.toNat ir.toNat serial) s

/-- R114, row SGTIN-198.P2. -/
def execSgtin198P2 (f : BitVec 3) (cp : BitVec 34) (ir : BitVec 10) (serial : BitSeq) (s : State) : Answer :=
  answerTag (sgtin198Tag 2 f.toNat cp.toNat ir.toNat serial) s

/-- R114, row SGTIN-198.P3. -/
def execSgtin198P3 (f : BitVec 3) (cp : BitVec 30) (ir : BitVec 14) (serial : BitSeq) (s : State) : Answer :=
  answerTag (sgtin198Tag 3 f.toNat cp.toNat ir.toNat serial) s

/-- R114, row SGTIN-198.P4. -/
def execSgtin198P4 (f : BitVec 3) (cp : BitVec 27) (ir : BitVec 17) (serial : BitSeq) (s : State) : Answer :=
  answerTag (sgtin198Tag 4 f.toNat cp.toNat ir.toNat serial) s

/-- R114, row SGTIN-198.P5. -/
def execSgtin198P5 (f : BitVec 3) (cp : BitVec 24) (ir : BitVec 20) (serial : BitSeq) (s : State) : Answer :=
  answerTag (sgtin198Tag 5 f.toNat cp.toNat ir.toNat serial) s

/-- R114, row SGTIN-198.P6. -/
def execSgtin198P6 (f : BitVec 3) (cp : BitVec 20) (ir : BitVec 24) (serial : BitSeq) (s : State) : Answer :=
  answerTag (sgtin198Tag 6 f.toNat cp.toNat ir.toNat serial) s

/-- R113, row SSCC-96.P0. -/
def execSscc96P0 (f : BitVec 3) (cp : BitVec 40) (sr : BitVec 18) (unallocated : BitSeq) (s : State) : Answer :=
  answerTag (sscc96Tag 0 f.toNat cp.toNat sr.toNat unallocated) s

/-- R113, row SSCC-96.P1. -/
def execSscc96P1 (f : BitVec 3) (cp : BitVec 37) (sr : BitVec 21) (unallocated : BitSeq) (s : State) : Answer :=
  answerTag (sscc96Tag 1 f.toNat cp.toNat sr.toNat unallocated) s

/-- R113, row SSCC-96.P2. -/
def execSscc96P2 (f : BitVec 3) (cp : BitVec 34) (sr : BitVec 24) (unallocated : BitSeq) (s : State) : Answer :=
  answerTag (sscc96Tag 2 f.toNat cp.toNat sr.toNat unallocated) s

/-- R113, row SSCC-96.P3. -/
def execSscc96P3 (f : BitVec 3) (cp : BitVec 30) (sr : BitVec 28) (unallocated : BitSeq) (s : State) : Answer :=
  answerTag (sscc96Tag 3 f.toNat cp.toNat sr.toNat unallocated) s

/-- R113, row SSCC-96.P4. -/
def execSscc96P4 (f : BitVec 3) (cp : BitVec 27) (sr : BitVec 31) (unallocated : BitSeq) (s : State) : Answer :=
  answerTag (sscc96Tag 4 f.toNat cp.toNat sr.toNat unallocated) s

/-- R113, row SSCC-96.P5. -/
def execSscc96P5 (f : BitVec 3) (cp : BitVec 24) (sr : BitVec 34) (unallocated : BitSeq) (s : State) : Answer :=
  answerTag (sscc96Tag 5 f.toNat cp.toNat sr.toNat unallocated) s

/-- R113, row SSCC-96.P6. -/
def execSscc96P6 (f : BitVec 3) (cp : BitVec 20) (sr : BitVec 38) (unallocated : BitSeq) (s : State) : Answer :=
  answerTag (sscc96Tag 6 f.toNat cp.toNat sr.toNat unallocated) s

/-- R108, R112, R116: what a reserved image ends in: partition bits 111 are InvalidPartition first, fewer than 58 bits are
refused, and the rest is NotImplemented with the reserved variant. The filter is read and discarded. -/
def answerReserved (name : ReservedName) (p : BitVec 3) (rest : BitSeq) (s : State) : Answer :=
  match partitionEntry p.toNat with
  | none => raise .invalidPartition s
  | some _ => if 14 + rest.length < 58 then refuse .imageTooShort else raise (.notImplemented name) s

/-- R112, row RESERVED.DOD-64. -/
def execReservedDod64 (_f p : BitVec 3) (rest : BitSeq) (s : State) : Answer := answerReserved .dod64 p rest s

/-- R112, row RESERVED.DOD-96. -/
def execReservedDod96 (_f p : BitVec 3) (rest : BitSeq) (s : State) : Answer := answerReserved .dod96 p rest s

/-- R112, row RESERVED.GLN-96. -/
def execReservedGln96 (_f p : BitVec 3) (rest : BitSeq) (s : State) : Answer := answerReserved .gln96 p rest s

/-- R112, row RESERVED.GRAI-96. -/
def execReservedGrai96 (_f p : BitVec 3) (rest : BitSeq) (s : State) : Answer := answerReserved .grai96 p rest s

/-- R112, row RESERVED.GIAI-96. -/
def execReservedGiai96 (_f p : BitVec 3) (rest : BitSeq) (s : State) : Answer := answerReserved .giai96 p rest s

/-- R112, row RESERVED.GID-96. -/
def execReservedGid96 (_f p : BitVec 3) (rest : BitSeq) (s : State) : Answer := answerReserved .gid96 p rest s

/-- R106, row UNSUPPORTED: "unknown header byte is fatal". -/
def execUnsupported (_header : BitVec 8) (_rest : BitSeq) (s : State) : Answer := raise .unsupportedHeader s

/-- R106, R108, row PARTITION7: InvalidPartition under every header of the table; the header is resolved first. -/
def execPartition7 (header : BitVec 8) (_f : BitVec 3) (_rest : BitSeq) (s : State) : Answer :=
  match headerTable header.toNat with
  | none => raise .unsupportedHeader s
  | some _ => raise .invalidPartition s

end Sys2Proof.Machine
end

