-- ==== Sys2Proof/Machine/Dispatch.lean ====
section
/-! DEFINITION. The dispatch: one arm for each constructor of Instr. -/

namespace Sys2Proof.Machine

open Sys2Proof

def exec (i : Instr) (s : State) : Host.Outcome State Fault Refusal :=
  match i with
  | .encSgtin96 f p cp ir ser => Sys2Proof.Machine.execEncSgtin96 f p cp ir ser s
  | .encSgtin198 f p cp ir ser => Sys2Proof.Machine.execEncSgtin198 f p cp ir ser s
  | .encSscc96 f p cp ext ser => Sys2Proof.Machine.execEncSscc96 f p cp ext ser s
  | .reserSgtin96 image ser => Sys2Proof.Machine.execReserSgtin96 image ser s
  | .dec image => Sys2Proof.Machine.execDec image s
  | .decGtin image => Sys2Proof.Machine.execDecGtin image s
  | .decSscc image => Sys2Proof.Machine.execDecSscc image s
  | .decSerial image => Sys2Proof.Machine.execDecSerial image s
  | .chkDigit digits => Sys2Proof.Machine.execChkDigit digits s
  | .chkValid digits => Sys2Proof.Machine.execChkValid digits s
  | .sgtin96P0 f cp ir ser => Sys2Proof.Machine.execSgtin96P0 f cp ir ser s
  | .sgtin96P1 f cp ir ser => Sys2Proof.Machine.execSgtin96P1 f cp ir ser s
  | .sgtin96P2 f cp ir ser => Sys2Proof.Machine.execSgtin96P2 f cp ir ser s
  | .sgtin96P3 f cp ir ser => Sys2Proof.Machine.execSgtin96P3 f cp ir ser s
  | .sgtin96P4 f cp ir ser => Sys2Proof.Machine.execSgtin96P4 f cp ir ser s
  | .sgtin96P5 f cp ir ser => Sys2Proof.Machine.execSgtin96P5 f cp ir ser s
  | .sgtin96P6 f cp ir ser => Sys2Proof.Machine.execSgtin96P6 f cp ir ser s
  | .sgtin198P0 f cp ir ser => Sys2Proof.Machine.execSgtin198P0 f cp ir ser s
  | .sgtin198P1 f cp ir ser => Sys2Proof.Machine.execSgtin198P1 f cp ir ser s
  | .sgtin198P2 f cp ir ser => Sys2Proof.Machine.execSgtin198P2 f cp ir ser s
  | .sgtin198P3 f cp ir ser => Sys2Proof.Machine.execSgtin198P3 f cp ir ser s
  | .sgtin198P4 f cp ir ser => Sys2Proof.Machine.execSgtin198P4 f cp ir ser s
  | .sgtin198P5 f cp ir ser => Sys2Proof.Machine.execSgtin198P5 f cp ir ser s
  | .sgtin198P6 f cp ir ser => Sys2Proof.Machine.execSgtin198P6 f cp ir ser s
  | .sscc96P0 f cp sr un => Sys2Proof.Machine.execSscc96P0 f cp sr un s
  | .sscc96P1 f cp sr un => Sys2Proof.Machine.execSscc96P1 f cp sr un s
  | .sscc96P2 f cp sr un => Sys2Proof.Machine.execSscc96P2 f cp sr un s
  | .sscc96P3 f cp sr un => Sys2Proof.Machine.execSscc96P3 f cp sr un s
  | .sscc96P4 f cp sr un => Sys2Proof.Machine.execSscc96P4 f cp sr un s
  | .sscc96P5 f cp sr un => Sys2Proof.Machine.execSscc96P5 f cp sr un s
  | .sscc96P6 f cp sr un => Sys2Proof.Machine.execSscc96P6 f cp sr un s
  | .reservedDod64 f p rest => Sys2Proof.Machine.execReservedDod64 f p rest s
  | .reservedDod96 f p rest => Sys2Proof.Machine.execReservedDod96 f p rest s
  | .reservedGln96 f p rest => Sys2Proof.Machine.execReservedGln96 f p rest s
  | .reservedGrai96 f p rest => Sys2Proof.Machine.execReservedGrai96 f p rest s
  | .reservedGiai96 f p rest => Sys2Proof.Machine.execReservedGiai96 f p rest s
  | .reservedGid96 f p rest => Sys2Proof.Machine.execReservedGid96 f p rest s
  | .unsupported header rest => Sys2Proof.Machine.execUnsupported header rest s
  | .partition7 header f rest => Sys2Proof.Machine.execPartition7 header f rest s

end Sys2Proof.Machine
end

