-- ==== Sys2Proof/Machine/Transact.lean ====
section
/-! DEFINITION. One transaction from a presented word (rule R12): decode, run, record; and what a word that is no instruction
ends in. -/

namespace Sys2Proof.Machine

open Sys2Proof

/-- What a presented word that decodes to no instruction ends in: a malformed image is the error MalformedHex of DEC (R105);
a too short image, an image of header 48 of another length and a reserved select code are refused (U5, U14). -/
def reject (e : DecodeError) (s : State) : Answer :=
  match e with
  | .malformedHex => raise .malformedHex s
  | .imageTooShort => refuse .imageTooShort
  | .sgtin96LengthNot96 => refuse .sgtin96LengthNot96
  | .reservedSelect => refuse .reservedSelect

/-- The response to a presented word. -/
def answer (w : Presented) (s : State) : Answer :=
  match decode w with
  | .ok i => exec i s
  | .error e => reject e s

/-- What the step adds around a response: the transaction goes to the trace. -/
def recorded (w : Presented) (a : Answer) : Answer :=
  match a with
  | .next t => .next (t.record w)
  | .fault f => .fault f
  | .refused r => .refused r

/-- R12: one request and the one response to it. -/
def transact (w : Presented) (s : State) : Answer := recorded w (answer w s)

end Sys2Proof.Machine
end

