-- ==== Sys2Proof/Machine/Step.lean ====
section
/-! DEFINITION. The step: one transaction (rules R12, R154). The oldest presented word is taken, decoded and run to its
response, and the transaction goes to the trace. -/

namespace Sys2Proof.Machine

open Sys2Proof

/-- The step: an idle block (nothing presented) stays as it is (R150), the last response with it (DESIGN CHOICE, log entry 22);
else the oldest presented word is handled. -/
def step (s : State) : Host.Outcome State Fault Refusal :=
  match s.requests with
  | [] => .next s
  | w :: rest => transact w { s with requests := rest }

/-- `s` with a word of spec/opcode_table.json presented as the next request (log entry 5). -/
def State.withFetchWord (s : State) (nbits w : Nat) : State := { s with requests := tableWord nbits w :: s.requests }

end Sys2Proof.Machine
end

