-- ==== Sys2Proof/Safety.lean ====
section
/-! DEFINITION. What a sound response is (fail closed, whole images, whole field maps), and the invariant of the state built
on it, in the terms the statements use. -/

namespace Sys2Proof.Machine

open Sys2Proof

/-- R36: one of `'0'` to `'9'`, `'A'` to `'F'`. -/
def isUpperHex (c : Chr) : Bool := (48 ≤ c.toNat && c.toNat ≤ 57) || (65 ≤ c.toNat && c.toNat ≤ 70)

/-- R98: 24 characters beginning "30" or "31", or 50 beginning "36", all uppercase hexadecimal. -/
def imageWf (h : Str) : Bool :=
  h.all isUpperHex &&
    ((h.length == 24 && (h.take 2 == str "30" || h.take 2 == str "31")) || (h.length == 50 && h.take 2 == str "36"))

/-- R109, R110, R113, R57: a string that is the decimal rendering of a number below `2^w` in at least `n` digits. -/
def renderedWf (s : Str) (w n : Nat) : Bool := s == rendered (parseDec s) n && decide (parseDec s < 2 ^ w)

/-- R15, R117: which members a field map has, by variant, and what each may hold. -/
def DecodedTag.wf (t : DecodedTag) : Bool :=
  match partitionEntry t.partition with
  | none => false
  | some e =>
    renderedWf t.filter 3 1 && renderedWf t.companyPrefix e.cpw (cpd t.partition) &&
    t.individualAssetReference.isNone && t.cageCode.isNone &&
    match t.variant with
    | .sgtin96 =>
      t.header == 48 && t.itemReference.any (fun s => renderedWf s e.irw (ird t.partition)) &&
        t.serialNumber.any (fun s => renderedWf s 38 12 && s.length == 12) &&
        t.serialReference.isNone && t.unallocated.isNone
    | .sgtin198 =>
      t.header == 54 && t.itemReference.any (fun s => renderedWf s e.irw (ird t.partition)) &&
        t.serialNumber.any (fun s => s.all fun c => decide (9 < c.toNat ∧ c.toNat < 128)) &&
        t.serialReference.isNone && t.unallocated.isNone
    | .sscc96 =>
      t.header == 49 && t.serialReference.any (fun s => renderedWf s e.srw (srd t.partition)) &&
        t.unallocated.isSome && t.itemReference.isNone && t.serialNumber.isNone
    | .reserved _ => false

/-- R14: the response holds exactly the result fields of one operation, a digit being 0 to 9. -/
def Response.oneResult (r : Response) : Bool :=
  match r.image, r.tag, r.present, r.text, r.digit, r.valid with
  | some h, none, none, none, none, none => imageWf h
  | none, some t, none, none, none, none => t.wf
  | none, none, some true, some _, none, none => true
  | none, none, some false, none, none, none => true
  | none, none, none, none, some d, none => decide (d ≤ 9)
  | none, none, none, none, none, some _ => true
  | _, _, _, _, _, _ => false

/-- R133: no result field is set. -/
def Response.noResult (r : Response) : Bool :=
  r.image.isNone && r.tag.isNone && r.present.isNone && r.text.isNone && r.digit.isNone && r.valid.isNone

/-- R14, R133, R137: with OK the results of one operation and no variant; with NotImplemented a reserved variant and no
result; with any other status neither. -/
def Response.wf (r : Response) : Bool :=
  match r.status with
  | .ok => r.variant.isNone && r.oneResult
  | .notImplemented => (match r.variant with | some (.reserved _) => true | _ => false) && r.noResult
  | _ => r.variant.isNone && r.noResult

/-- The invariant: the response on the port and every response of the trace are sound. -/
def State.Inv (s : State) : Prop :=
  (∀ r, s.rsp = some r → r.wf = true) ∧ ∀ t ∈ s.history, t.response.wf = true

/-- What a host sees of an answer: the response port, or the model's refusal. -/
inductive Reply where
  | port (r : Option Response)
  | refused (x : Refusal)
  deriving DecidableEq, Repr

/-- R12: what a host sees of an answer. -/
def reply (a : Answer) : Reply :=
  match a with
  | .next t => .port t.rsp
  | .fault f => nomatch f
  | .refused x => .refused x

/-- R86 to R89: the operands pass the shared validation of the SGTIN encoders, `e` being the partition's entry. -/
def PassesSharedChecks (f p : Nat) (e : PartitionEntry) (companyPrefix itemReference : Str) : Prop :=
  (f ≤ 7 ∧ partitionEntry p = some e) ∧ (isDigitStr companyPrefix = true ∧ parseDec companyPrefix < 2 ^ e.cpw) ∧
    (isDigitStr itemReference = true ∧ parseDec itemReference < 2 ^ e.irw)

/-- R94: the serial-reference operands of ENC.SSCC96 make a number that fits its field. -/
def FitsSerialReference (p : Nat) (e : PartitionEntry) (extension serial : Str) : Prop :=
  extension.length = 1 ∧ isDigitStr (extension ++ padLeftDigits serial (srpad p)) = true ∧
    parseDec (extension ++ padLeftDigits serial (srpad p)) < 2 ^ e.srw

/-- R105, R106, R108: `h` converts to the bits `b`, whose header is that of `v` and whose partition bits are `p`, with
entry `e`. -/
def ImageIs (v : EncodingVariant) (h : Str) (b : BitSeq) (p : Nat) (e : PartitionEntry) : Prop :=
  hexToBits h = some b ∧ headerTable (bitsToUnsigned (takeBits b 0 8)) = some v ∧
    bitsToUnsigned (takeBits b 11 3) = p ∧ partitionEntry p = some e

/-- R116: the lengths, in bits, for which the rules give a decode a value. -/
def LengthDecodes (v : EncodingVariant) (n : Nat) : Prop :=
  match v with
  | .sgtin96 => n = 96
  | .sgtin198 => 58 ≤ n
  | .sscc96 => 72 ≤ n
  | .reserved _ => 58 ≤ n

/-- R57, R109, R110, R113: the text of the numeric field at `off`, `w` bits wide, in at least `n` digits. -/
def fieldText (b : BitSeq) (off w n : Nat) : Str := padLeftDigits (dec (bitsToUnsigned (takeBits b off w))) n

/-- R75: `(1000 − sum) mod 10` as a character behind `g`. -/
def closedBy (g : Str) : Str := g ++ [BitVec.ofNat 8 (48 + (1000 - weightedSum g) % 10)]

/-- The five operations that decode an image (R131). -/
def decodingOps (h serial : Str) : List Instr := [.dec h, .decGtin h, .decSscc h, .decSerial h, .reserSgtin96 h serial]

/-- The three encoders of one set of operands (R131: the operations that report FilterOutOfRange). -/
def encoderOps (f p : Nat) (companyPrefix reference serial : Str) : List Instr :=
  [.encSgtin96 f p companyPrefix reference serial, .encSgtin198 f p companyPrefix reference serial,
   .encSscc96 f p companyPrefix reference serial]

/-- R114, R153 item 1: what comes back of a 20th character: its low two bits cleared. -/
def clearLowTwo (c : Chr) : Chr := BitVec.ofNat 8 (c.toNat - c.toNat % 4)

/-- R72, R114, R153: what a decode gives back of an SGTIN-198 serial: the 20th character with its low two bits cleared,
then every character of code 0 to 9 dropped. -/
def comesBack (serial : Str) : Str :=
  ((if serial.length = 20 then serial.take 19 ++ (serial.drop 19).map clearLowTwo else serial).filter
    fun c => decide (9 < c.toNat))

end Sys2Proof.Machine
end

