-- ==== Sys2Proof/Certificates/Slice0/Obligations.lean ====
section
/-! DEFINITION. The statements for the provers. Each docstring names the rule of spec/ it formalises, and what in it is the
model's own choice. The block has no register, no memory, no program counter and no flag (R10, R11, R17, R19), so a
frame speaks of the two fields of State that are not the response port. -/

open Sys2Proof Sys2Proof.Machine

/-- R12: the step takes the oldest presented word, runs the instruction it decodes to, and records the transaction; what
stands around exec (the queue and the trace) is the model's own (log entries 1, 2). -/
def Obligations.StepRunsDecodedInstruction : Prop :=
  ∀ (s : State) (w : Presented) (rest : List Presented) (i : Instr),
    s.requests = w :: rest → decode w = .ok i →
      step s = match exec i { s with requests := rest } with
        | .next t => .next (t.record w)
        | .fault f => .fault f
        | .refused x => .refused x

/-- A presented word that is no instruction: a malformed image answers MalformedHex (R50, R105); a too short image, an image of
header 48 of another length and a reserved select code are refused by name (U5, U14). Log entries 3 and 8. -/
def Obligations.UndecodableWordIsAnsweredByName : Prop :=
  ∀ (s : State) (w : Presented) (rest : List Presented), s.requests = w :: rest →
    (decode w = .error .malformedHex →
      step s = .next (({ s with requests := rest }.respond (Response.ofError .malformedHex)).record w)) ∧
    (decode w = .error .imageTooShort → step s = .refused .imageTooShort) ∧
    (decode w = .error .sgtin96LengthNot96 → step s = .refused .sgtin96LengthNot96) ∧
    (∀ r : Request, w = .command r → r.op.toNat = 0 ∨ 11 ≤ r.op.toNat → step s = .refused .reservedSelect)

/-- R18, R150: after reset the port has no value, the block is idle, and it answers the first request as any other. A reset
between two transactions empties the port and changes no later response; one during a transaction abandons it: its word is
gone, with no response on the port and none in the trace, and the next word is answered as any. That the host's queue
and the trace outlast a reset is the model's choice (log entry 4). -/
def Obligations.ResetLeavesBlockIdle : Prop :=
  State.reset.rsp = none ∧ step State.reset = .next State.reset ∧
  (∀ (s : State) (w : Presented) (rest : List Presented),
    reply (step { State.reset with requests := w :: rest }) = reply (step { s with requests := w :: rest })) ∧
  (∀ s : State, s.applyReset.rsp = none ∧ s.applyReset.requests = s.requests ∧ s.applyReset.history = s.history ∧
    (s.requests ≠ [] → reply (step s.applyReset) = reply (step s))) ∧
  ∀ (s : State) (w : Presented) (rest : List Presented), s.requests = w :: rest →
    s.abandonTransaction.rsp = none ∧ s.abandonTransaction.requests = rest ∧
    s.abandonTransaction.history = s.history ∧
    (rest ≠ [] → reply (step s.abandonTransaction) = reply (step { State.reset with requests := rest }))

/-- R10: the response of a transaction is a function of its request alone. -/
def Obligations.ResponseIsFunctionOfRequest : Prop :=
  ∀ w : Presented, ∃ r : Reply, ∀ (s : State) (rest : List Presented), s.requests = w :: rest → reply (step s) = r

/-- R27: a run over a list of requests none of which is refused, presented in another order, completes too, and the two
runs hold the same transactions up to order: each request has the same response. The queue and the trace it speaks of
are the model's own (log entries 1 and 2). -/
def Obligations.OrderOfRequestsIsImmaterial : Prop :=
  ∀ (ws ws' : List Presented) (s s' t : State), ws.Perm ws' → s.requests = ws → s'.requests = ws' →
    s.history = [] → s'.history = [] → core.run ws.length s = .next t →
      t.requests = [] ∧ t.history.map Transaction.request = ws ∧
        ∃ t', core.run ws'.length s' = .next t' ∧ t'.requests = [] ∧ t'.history.map Transaction.request = ws' ∧
          t'.history.Perm t.history

/-- Frame of every instruction: when exec gives a next state, only the response port has changed (R12, R133: "nothing
else changes, because there is nothing else"). -/
def Obligations.ExecChangesOnlyTheResponsePort : Prop :=
  ∀ (i : Instr) (s t : State), exec i s = .next t →
    t.requests = s.requests ∧ t.history = s.history ∧ ∃ r, t.rsp = some r ∧ t = { s with rsp := some r }

/-- The invariant is kept by every step, from every state that meets it (R14, R15, R98, R117, R133). -/
def Obligations.SoundResponsesAreInvariant : Prop :=
  ∀ s t : State, s.Inv → step s = .next t → t.Inv

/-- The invariant holds at reset. -/
def Obligations.SoundResponsesHoldAtReset : Prop := State.reset.Inv

/-- R133: an error ends the transaction with its status and no result field, and nothing but the response port changes;
R137: a variant is set with NotImplemented only. -/
def Obligations.ErrorsCarryNoResult : Prop :=
  ∀ (i : Instr) (s t : State) (r : Response), exec i s = .next t → t.rsp = some r →
    t = s.respond r ∧
    (r.status ≠ .ok → r.image = none ∧ r.tag = none ∧ r.present = none ∧ r.text = none ∧ r.digit = none ∧
      r.valid = none) ∧
    (r.status ≠ .notImplemented → r.variant = none) ∧
    (r.status = .notImplemented → ∃ n, r.variant = some (.reserved n))

/-- Decode and encode agree, for every well-formed instruction of every row (R26, R30 to R35, R39). -/
def Obligations.DecodeOfEncodeIsIdentity : Prop :=
  ∀ i : Instr, i.wf = true → decode (encode i) = .ok i

/-- The decoder reads only well-formed instructions, and an image's instruction holds every bit of the image. -/
def Obligations.DecodeKeepsEveryImageBit : Prop :=
  ∀ (h : Str) (b : BitSeq) (i : Instr), hexToBits h = some b → decode (.image h) = .ok i →
    i.wf = true ∧ imageBits i = b

/-- R39: words written out from the table decode to the operations they stand for. -/
def Obligations.SelectCodesAreRead : Prop :=
  decode (.command { op := 0b0101#4, image := str "3074" }) = .ok (.dec (str "3074")) ∧
  decode (.command { op := 0b1010#4, digits := str "12" }) = .ok (.chkValid (str "12")) ∧
  decode (.command { op := 0b0100#4, image := str "30", serial := str "7" }) = .ok (.reserSgtin96 (str "30") (str "7")) ∧
  decode (.image (str "301800000000000000000001")) = .ok (.sgtin96P6 0#3 0#20 0#24 1#38)

/-- R13: operands an operation does not name are ignored. -/
def Obligations.UnnamedOperandsAreIgnored : Prop :=
  ∀ r q : Request, r.op = q.op →
    (r.op.toNat ∈ [1, 2] → r.filter = q.filter → r.partition = q.partition → r.companyPrefix = q.companyPrefix →
      r.itemReference = q.itemReference → r.serial = q.serial → decode (.command r) = decode (.command q)) ∧
    (r.op.toNat = 3 → r.filter = q.filter → r.partition = q.partition → r.companyPrefix = q.companyPrefix →
      r.extension = q.extension → r.serial = q.serial → decode (.command r) = decode (.command q)) ∧
    (r.op.toNat = 4 → r.image = q.image → r.serial = q.serial → decode (.command r) = decode (.command q)) ∧
    (r.op.toNat ∈ [5, 6, 7, 8] → r.image = q.image → decode (.command r) = decode (.command q)) ∧
    (r.op.toNat ∈ [9, 10] → r.digits = q.digits → decode (.command r) = decode (.command q))

/-- An image presented by itself is answered exactly as DEC answers it (log entry 3), so the rows of the table, read at the literal
offsets of R26, agree with the running cursor of R115 on every string. -/
def Obligations.PresentedImageIsAnsweredAsDec : Prop :=
  (∀ (h : Str) (s : State), answer (.image h) s = exec (.dec h) s) ∧
  ∀ (h : Str) (i : Instr) (s : State), decode (.image h) = .ok i → exec i s = exec (.dec h) s

/-- R31: the header table holds exactly nine byte values, with the variants the source states. -/
def Obligations.HeaderTableHoldsNineBytes : Prop :=
  headerTable 48 = some .sgtin96 ∧ headerTable 54 = some .sgtin198 ∧ headerTable 49 = some .sscc96 ∧
    (∀ n ∈ [50, 51, 52, 53, 206, 207], ∃ name, headerTable n = some (.reserved name)) ∧
    ∀ n, n ∉ [206, 207, 54, 48, 49, 50, 51, 52, 53] → headerTable n = none

/-- R68: the invariants of the partition table, for all seven rows; every number of the nominal digit count fits its field,
and a field holds a number (its greatest) of more digits than that. -/
def Obligations.PartitionRowsFillTheImage : Prop :=
  (∀ p, 6 < p → partitionEntry p = none) ∧
  ∀ p, p ≤ 6 → ∃ e, partitionEntry p = some e ∧ e.cpw + e.irw = 44 ∧ e.cpw + e.srw = 58 ∧
    8 + 3 + 3 + (e.cpw + e.irw) + 38 = 96 ∧ 8 + 3 + 3 + (e.cpw + e.irw) + 140 = 198 ∧
    8 + 3 + 3 + (e.cpw + e.srw) + 24 = 96 ∧
    10 ^ (12 - p) ≤ 2 ^ e.cpw - 1 ∧ 10 ^ (1 + p) ≤ 2 ^ e.irw - 1 ∧ 10 ^ (5 + p) ≤ 2 ^ e.srw - 1 ∧
    cpd p = 12 - p ∧ ird p = 1 + p ∧ srd p = 5 + p ∧ srpad p = p + 4

/-- R50: `hexToBits` fails exactly where some character is not a hexadecimal digit, and gives 4 bits a character else, most
significant first, character by character; `'0'` to `'9'` and `'A'` to `'F'` always are digits, a character outside
these and `'a'` to `'f'` never is, and `'a'` to `'f'` are as HEX_LOWER says (log entry 6). -/
def Obligations.HexConversionFailsOnlyOnNonDigits : Prop :=
  hexToBits [] = some [] ∧
  (∀ h : Str, hexToBits h = none ↔ ∃ c ∈ h, hexToBits [c] = none) ∧
  (∀ (h : Str) (b : BitSeq), hexToBits h = some b → b.length = 4 * h.length) ∧
  (∀ (h g : Str) (b d : BitSeq), hexToBits h = some b → hexToBits g = some d → hexToBits (h ++ g) = some (b ++ d)) ∧
  (∀ c : Chr, isUpperHex c = true →
    hexToBits [c] = some (toBits (if c.toNat ≤ 57 then c.toNat - 48 else c.toNat - 55) 4)) ∧
  (∀ c : Chr, 97 ≤ c.toNat → c.toNat ≤ 102 →
    hexToBits [c] = if Config.hexLowerAccepted then some (toBits (c.toNat - 87) 4) else none) ∧
  (∀ c : Chr, isUpperHex c = false → ¬(97 ≤ c.toNat ∧ c.toNat ≤ 102) → hexToBits [c] = none)

/-- R52: the string is uppercase, has one character for 4 bits rounded up, and converts back to the same bits exactly when
the length is a multiple of 4; a short last group comes back preceded by zeros. -/
def Obligations.ShortLastGroupComesBackPrecededByZeros : Prop :=
  ∀ b : BitSeq, (bitsToHex b).all isUpperHex = true ∧ (bitsToHex b).length = (b.length + 3) / 4 ∧
    hexToBits (bitsToHex b) =
      some (b.take (b.length / 4 * 4) ++ zeros ((4 - b.length % 4) % 4) ++ b.drop (b.length / 4 * 4)) ∧
    (hexToBits (bitsToHex b) = some b ↔ b.length % 4 = 0)

/-- R55, R51: for `v < 2^w`, `toBits(v, w)` is the one `w`-bit sequence of value `v`; from `2^w` on it is longer. -/
def Obligations.ToBitsIsTheOnlySequenceOfItsValue : Prop :=
  ∀ v w : Nat,
    (v < 2 ^ w → (toBits v w).length = w ∧ bitsToUnsigned (toBits v w) = v ∧
      ∀ b : BitSeq, b.length = w → bitsToUnsigned b = v → b = toBits v w) ∧
    (2 ^ w ≤ v → w < (toBits v w).length ∧ bitsToUnsigned (toBits v w) = v)

/-- R57, R56: `dec(v)` is a digit string of value `v`, the shortest one, without a leading zero but for `dec(0) = "0"`. -/
def Obligations.DecIsTheShortestRendering : Prop :=
  dec 0 = str "0" ∧ ∀ v : Nat, isDigitStr (dec v) = true ∧ parseDec (dec v) = v ∧
    (v ≠ 0 → (dec v).head? ≠ some 48#8) ∧
    ∀ s : Str, isDigitStr s = true → parseDec s = v → (dec v).length ≤ s.length

/-- R72: the 7-bit codec gives a string back with every character of code 0 to 9 removed, and zero bits behind it decode to
nothing. -/
def Obligations.SevenBitDecodeDropsLowCodes : Prop :=
  ∀ (s : Str) (b : BitSeq), encode7bit s = some b →
    b.length = 7 * s.length ∧ decode7bit b = s.filter (fun c => decide (9 < c.toNat)) ∧
      (decode7bit b = s ↔ ∀ c ∈ s, 9 < c.toNat) ∧ ∀ n, decode7bit (b ++ zeros n) = decode7bit b

/-- R75: the rightmost digit has weight 3, then 1, then 3, whatever the length of the string; the check digit is
`(1000 - sum) mod 10`, defined up to a sum of 1000, and equal to `(10 - (sum mod 10)) mod 10`. -/
def Obligations.WeightsAlternateFromTheRight : Prop :=
  ∀ d : Str,
    weightedSum d =
      ∑ k ∈ Finset.range d.length, digitVal (d.getD (d.length - 1 - k) 48#8) * (if k % 2 = 0 then 3 else 1) ∧
    (weightedSum d ≤ 1000 → weightedChecksum d = .ok ((1000 - weightedSum d) % 10) ∧
      weightedChecksum d = .ok ((10 - weightedSum d % 10) % 10))

/-- R78: the greatest sum of `n` digits, that of `n` nines; every payload of at most 55 digits is in range whatever its
digits. -/
def Obligations.FiftyFiveDigitsStayInRange : Prop :=
  ∀ d : Str, d.all isDigit = true →
    weightedSum d ≤ 9 * (3 * ((d.length + 1) / 2) + d.length / 2) ∧
    weightedSum (List.replicate d.length 57#8) = 9 * (3 * ((d.length + 1) / 2) + d.length / 2) ∧
    (d.length ≤ 55 → weightedSum d ≤ 999)

/-- R76: CHK.DIGIT on the empty payload or a digit string of sum at most 1000, and its refusals, in order: a non-empty
payload that is no digit string (U2), then a sum over 1000 (U4). Log entry 8. -/
def Obligations.ChkDigitAnswersTheCheckDigit : Prop :=
  ∀ (s : State) (d : Str),
    ((d = [] ∨ isDigitStr d = true) → weightedSum d ≤ 1000 →
      exec (.chkDigit d) s = .next (s.respond (Response.ofDigit ((1000 - weightedSum d) % 10)))) ∧
    (d ≠ [] → isDigitStr d = false → exec (.chkDigit d) s = .refused .payloadNotNumeric) ∧
    (isDigitStr d = true → 1000 < weightedSum d → exec (.chkDigit d) s = .refused .checksumSumOver1000)

/-- R76, R77, R78, U4: where a check-digit computation has a weighted sum over 1000, both checksum operations refuse,
whatever the last digit of the number to validate; up to 1000 neither does so, and CHK.VALID answers 1 for exactly the last
digit CHK.DIGIT answers. Log entry 8. -/
def Obligations.ChecksumIsRefusedAboveOneThousand : Prop :=
  ∀ (s : State) (d : Str) (c : Chr), isDigitStr d = true → isDigit c = true →
    (1000 < weightedSum d → exec (.chkDigit d) s = .refused .checksumSumOver1000 ∧
      exec (.chkValid (d ++ [c])) s = .refused .checksumSumOver1000) ∧
    (weightedSum d ≤ 1000 → ∃ v ≤ 9, exec (.chkDigit d) s = .next (s.respond (Response.ofDigit v)) ∧
      exec (.chkValid (d ++ [c])) s = .next (s.respond (Response.ofValid (v == digitVal c))))

/-- R77: CHK.VALID never answers an error; it answers 0 for the empty and the non-numeric string, else whether the last
digit is the check digit of the rest, with no length check, unless the sum of the rest is over 1000, which is refused (U4;
log entry 8). -/
def Obligations.ChkValidAnswersThePredicate : Prop :=
  ∀ (s : State),
    (∀ d : Str, weightedSum d.dropLast ≤ 1000 → ∃ v, exec (.chkValid d) s = .next (s.respond (Response.ofValid v))) ∧
    (∀ (d : Str) (t : State), exec (.chkValid d) s = .next t → ∃ v, t = s.respond (Response.ofValid v)) ∧
    (∀ d : Str, isDigitStr d = false → exec (.chkValid d) s = .next (s.respond (Response.ofValid false))) ∧
    (∀ (d : Str) (c : Chr), d.all isDigit = true → isDigit c = true → weightedSum d ≤ 1000 →
      exec (.chkValid (d ++ [c])) s =
        .next (s.respond (Response.ofValid (decide ((1000 - weightedSum d) % 10 = digitVal c))))) ∧
    (∀ (d : Str) (c : Chr), d.all isDigit = true → isDigit c = true → 1000 < weightedSum d →
      exec (.chkValid (d ++ [c])) s = .refused .checksumSumOver1000)

/-- R86: a filter above 7 is reported first, whatever else is wrong; a filter up to 7 never is. -/
def Obligations.FilterIsCheckedFirst : Prop :=
  ∀ (s t : State) (f p : Nat) (cp x ser : Str) (i : Instr), i ∈ encoderOps f p cp x ser →
    (7 < f → exec i s = .next (s.respond (Response.ofError .filterOutOfRange))) ∧
    (f ≤ 7 → exec i s = .next t → t.rsp ≠ some (Response.ofError .filterOutOfRange))

/-- R87: with a legal filter a partition above 6 is reported next, whatever else is wrong; one up to 6 never is. -/
def Obligations.PartitionIsCheckedSecond : Prop :=
  ∀ (s t : State) (f p : Nat) (cp x ser : Str) (i : Instr), i ∈ encoderOps f p cp x ser → f ≤ 7 →
    (6 < p → exec i s = .next (s.respond (Response.ofError .invalidPartition))) ∧
    (p ≤ 6 → exec i s = .next t → t.rsp ≠ some (Response.ofError .invalidPartition))

/-- R88: then the company prefix: its number, not its digit count, is held against the width; a string that is no digit
string is refused (U1). -/
def Obligations.CompanyPrefixIsCheckedByValue : Prop :=
  ∀ (s t : State) (f p : Nat) (e : PartitionEntry) (cp x ser : Str) (i : Instr), i ∈ encoderOps f p cp x ser → f ≤ 7 →
    partitionEntry p = some e →
    (isDigitStr cp = false → exec i s = .refused .operandNotNumeric) ∧
    (isDigitStr cp = true → 2 ^ e.cpw ≤ parseDec cp →
      exec i s = .next (s.respond (Response.ofError .companyPrefixTooLong))) ∧
    (isDigitStr cp = true → parseDec cp < 2 ^ e.cpw → exec i s = .next t →
      t.rsp ≠ some (Response.ofError .companyPrefixTooLong))

/-- R89: then, for the two SGTIN encoders only, the item reference by its number; ENC.SSCC96 never reports it (R95). -/
def Obligations.ItemReferenceIsCheckedByValue : Prop :=
  ∀ (s t : State) (f p : Nat) (e : PartitionEntry) (cp ir ser : Str), f ≤ 7 → partitionEntry p = some e →
    isDigitStr cp = true → parseDec cp < 2 ^ e.cpw →
    (∀ i ∈ [Instr.encSgtin96 f p cp ir ser, .encSgtin198 f p cp ir ser],
      (isDigitStr ir = false → exec i s = .refused .operandNotNumeric) ∧
      (isDigitStr ir = true → 2 ^ e.irw ≤ parseDec ir →
        exec i s = .next (s.respond (Response.ofError .itemReferenceTooLong))) ∧
      (isDigitStr ir = true → parseDec ir < 2 ^ e.irw → exec i s = .next t →
        t.rsp ≠ some (Response.ofError .itemReferenceTooLong))) ∧
    (exec (.encSscc96 f p cp ir ser) s = .next t → t.rsp ≠ some (Response.ofError .itemReferenceTooLong))

/-- R90: then the SGTIN-96 serial. The bound 2^38 is inclusive: it is no error, and the image it would need has no value
(R91, C2, U10), so that one serial is refused; every serial below it passes; a sign followed by digits is refused (U8); the
empty serial is no number (decision D7). The two refusals are log entry 8. -/
def Obligations.SerialOfSgtin96IsCheckedLast : Prop :=
  ∀ (s : State) (f p : Nat) (e : PartitionEntry) (cp ir ser : Str), PassesSharedChecks f p e cp ir →
    (isDigitStr ser = true → 2 ^ 38 < parseDec ser →
      exec (.encSgtin96 f p cp ir ser) s = .next (s.respond (Response.ofError .serialOutOfRange))) ∧
    (isDigitStr ser = true → parseDec ser < 2 ^ 38 →
      ∃ h, exec (.encSgtin96 f p cp ir ser) s = .next (s.respond (Response.ofImage h))) ∧
    (isDigitStr ser = true → parseDec ser = 2 ^ 38 →
      exec (.encSgtin96 f p cp ir ser) s = .refused .serialNeeds39Bits) ∧
    (∀ digits : Str, isDigitStr digits = true → ser = 43#8 :: digits ∨ ser = 45#8 :: digits →
      exec (.encSgtin96 f p cp ir ser) s = .refused .signedSerial) ∧
    (isDigitStr ser = false → (∀ digits : Str, isDigitStr digits = true → ser ≠ 43#8 :: digits ∧ ser ≠ 45#8 :: digits) →
      exec (.encSgtin96 f p cp ir ser) s = .next (s.respond (Response.ofError .serialNotNumeric)))

/-- R91: ENC.SGTIN96 on operands that pass every check and a serial below 2^38. -/
def Obligations.EncSgtin96PacksTheImage : Prop :=
  ∀ (s : State) (f p : Nat) (e : PartitionEntry) (cp ir ser : Str), PassesSharedChecks f p e cp ir →
    isDigitStr ser = true → parseDec ser < 2 ^ 38 →
    exec (.encSgtin96 f p cp ir ser) s = .next (s.respond (Response.ofImage (bitsToHex
      (toBits 48 8 ++ toBits f 3 ++ toBits p 3 ++ toBits (parseDec cp) e.cpw ++ toBits (parseDec ir) e.irw ++
        toBits (parseDec ser) 38))))

/-- R33, R26: the same image as a number: every field at its place, 96 bits, 24 characters. -/
def Obligations.Sgtin96ImageAsANumber : Prop :=
  ∀ (s : State) (f p : Nat) (e : PartitionEntry) (cp ir ser : Str), PassesSharedChecks f p e cp ir →
    isDigitStr ser = true → parseDec ser < 2 ^ 38 →
    ∃ h b, exec (.encSgtin96 f p cp ir ser) s = .next (s.respond (Response.ofImage h)) ∧ h.length = 24 ∧
      hexToBits h = some b ∧ b.length = 96 ∧
      bitsToUnsigned b = 48 * 2 ^ 88 + f * 2 ^ 85 + p * 2 ^ 82 + parseDec cp * 2 ^ (82 - e.cpw) +
        parseDec ir * 2 ^ 38 + parseDec ser

/-- R92, R93: ENC.SGTIN198: the length first, then the 7-bit packing (a character of code 128 or more is refused, U3), then
zero bits up to 140. -/
def Obligations.EncSgtin198PacksTheImage : Prop :=
  ∀ (s : State) (f p : Nat) (e : PartitionEntry) (cp ir ser : Str), PassesSharedChecks f p e cp ir →
    (20 < ser.length →
      exec (.encSgtin198 f p cp ir ser) s = .next (s.respond (Response.ofError .serialTooLong))) ∧
    (ser.length ≤ 20 → (∃ c ∈ ser, 128 ≤ c.toNat) → exec (.encSgtin198 f p cp ir ser) s = .refused .charNot7Bit) ∧
    (ser.length ≤ 20 → (∀ c ∈ ser, c.toNat < 128) →
      exec (.encSgtin198 f p cp ir ser) s = .next (s.respond (Response.ofImage (bitsToHex
        (toBits 54 8 ++ toBits f 3 ++ toBits p 3 ++ toBits (parseDec cp) e.cpw ++ toBits (parseDec ir) e.irw ++
          ser.flatMap (fun c => toBits c.toNat 7) ++ zeros (140 - 7 * ser.length))))))

/-- R94, R95: ENC.SSCC96: the extension and the padded serial reference as one number, 24 zero bits behind; no error status
for this field, the three inputs without a value are refused (U1, U6, U7). -/
def Obligations.EncSscc96PacksTheImage : Prop :=
  ∀ (s : State) (f p : Nat) (e : PartitionEntry) (cp ext ser : Str), f ≤ 7 → partitionEntry p = some e →
    isDigitStr cp = true → parseDec cp < 2 ^ e.cpw →
    (ext.length ≠ 1 → exec (.encSscc96 f p cp ext ser) s = .refused .extensionNotOneChar) ∧
    (ext.length = 1 → isDigitStr (ext ++ padLeftDigits ser (p + 4)) = false →
      exec (.encSscc96 f p cp ext ser) s = .refused .operandNotNumeric) ∧
    (ext.length = 1 → isDigitStr (ext ++ padLeftDigits ser (p + 4)) = true →
      2 ^ e.srw ≤ parseDec (ext ++ padLeftDigits ser (p + 4)) →
      exec (.encSscc96 f p cp ext ser) s = .refused .serialReferenceOverflow) ∧
    (ext.length = 1 → isDigitStr (ext ++ padLeftDigits ser (p + 4)) = true →
      parseDec (ext ++ padLeftDigits ser (p + 4)) < 2 ^ e.srw →
      exec (.encSscc96 f p cp ext ser) s = .next (s.respond (Response.ofImage (bitsToHex
        (toBits 49 8 ++ toBits f 3 ++ toBits p 3 ++ toBits (parseDec cp) e.cpw ++
          toBits (parseDec (ext ++ padLeftDigits ser (p + 4))) e.srw ++ zeros 24)))))

/-- R35, R26: the SSCC-96 image as a number: every field at its place, the low 24 bits zero. -/
def Obligations.Sscc96ImageAsANumber : Prop :=
  ∀ (s : State) (f p : Nat) (e : PartitionEntry) (cp ext ser : Str), f ≤ 7 → partitionEntry p = some e →
    isDigitStr cp = true → parseDec cp < 2 ^ e.cpw → FitsSerialReference p e ext ser →
    ∃ h b, exec (.encSscc96 f p cp ext ser) s = .next (s.respond (Response.ofImage h)) ∧ h.length = 24 ∧
      hexToBits h = some b ∧ b.length = 96 ∧
      bitsToUnsigned b = 49 * 2 ^ 88 + f * 2 ^ 85 + p * 2 ^ 82 + parseDec cp * 2 ^ (82 - e.cpw) +
        parseDec (ext ++ padLeftDigits ser (p + 4)) * 2 ^ 24

/-- R98: every image with status OK is 24 or 50 uppercase hexadecimal characters beginning as its operation's do, and with
any other status no image is output. -/
def Obligations.EncodersEmitWholeImages : Prop :=
  ∀ (s t : State) (r : Response), t.rsp = some r →
    (∀ f p cp ir ser, exec (.encSgtin96 f p cp ir ser) s = .next t →
      (r.status = .ok ↔ r.image.isSome = true) ∧
      ∀ h, r.image = some h → h.length = 24 ∧ h.take 2 = str "30" ∧ h.all isUpperHex = true) ∧
    (∀ f p cp ir ser, exec (.encSgtin198 f p cp ir ser) s = .next t →
      (r.status = .ok ↔ r.image.isSome = true) ∧
      ∀ h, r.image = some h → h.length = 50 ∧ h.take 2 = str "36" ∧ h.all isUpperHex = true) ∧
    (∀ f p cp ext ser, exec (.encSscc96 f p cp ext ser) s = .next t →
      (r.status = .ok ↔ r.image.isSome = true) ∧
      ∀ h, r.image = some h → h.length = 24 ∧ h.take 2 = str "31" ∧ h.all isUpperHex = true) ∧
    (∀ image ser, exec (.reserSgtin96 image ser) s = .next t →
      (r.status = .ok ↔ r.image.isSome = true) ∧
      ∀ h, r.image = some h → h.length = 24 ∧ h.take 2 = str "30" ∧ h.all isUpperHex = true)

/-- R88, R91: extra leading zeros in any decimal operand of ENC.SGTIN96 change nothing in the response. -/
def Obligations.LeadingZerosChangeNoSgtin96Response : Prop :=
  ∀ (s : State) (f p a b c : Nat) (cp ir ser : Str), isDigitStr cp = true → isDigitStr ir = true → isDigitStr ser = true →
    exec (.encSgtin96 f p (List.replicate a 48#8 ++ cp) (List.replicate b 48#8 ++ ir) (List.replicate c 48#8 ++ ser)) s =
      exec (.encSgtin96 f p cp ir ser) s

/-- R96: RESER.SGTIN96 gives the old image with its last 38 bits replaced by the new serial. -/
def Obligations.ReserializeReplacesTheSerial : Prop :=
  ∀ (s : State) (h ser : Str) (b : BitSeq) (p : Nat) (e : PartitionEntry), ImageIs .sgtin96 h b p e → b.length = 96 →
    isDigitStr ser = true → parseDec ser < 2 ^ 38 →
    exec (.reserSgtin96 h ser) s = .next (s.respond (Response.ofImage (bitsToHex (b.take 58 ++ toBits (parseDec ser) 38))))

/-- R96: the decode's errors and refusals come first; then an image of another variant is refused (U13); then a serial that
is not a digit string or not below 2^38 ends as in ENC.SGTIN96 on any operands that pass the shared checks. -/
def Obligations.ReserializeErrorsInOrder : Prop :=
  ∀ (s : State) (h ser : Str),
    (∀ e, exec (.dec h) s = .next (s.respond (Response.ofError e)) →
      exec (.reserSgtin96 h ser) s = .next (s.respond (Response.ofError e))) ∧
    (∀ x, exec (.dec h) s = .refused x → exec (.reserSgtin96 h ser) s = .refused x) ∧
    (∀ t, exec (.dec h) s = .next (s.respond (Response.ofTag t)) →
      (t.header ≠ 48 → exec (.reserSgtin96 h ser) s = .refused .reserializeNotSgtin96) ∧
      (t.header = 48 → ∀ f p e cp ir, PassesSharedChecks f p e cp ir → isDigitStr ser = false ∨ 2 ^ 38 ≤ parseDec ser →
        exec (.reserSgtin96 h ser) s = exec (.encSgtin96 f p cp ir ser) s))

/-- R131: the causes of the decoder's four errors, for the five decoding operations. R105: the whole string is converted
first; R108: the partition is read before the variant dispatch. -/
def Obligations.DecodingErrorsAndTheirCauses : Prop :=
  ∀ (s : State) (h ser : Str) (i : Instr), i ∈ decodingOps h ser →
    (hexToBits h = none → exec i s = .next (s.respond (Response.ofError .malformedHex))) ∧
    ∀ b, hexToBits h = some b →
      (8 ≤ b.length → headerTable (bitsToUnsigned (takeBits b 0 8)) = none →
        exec i s = .next (s.respond (Response.ofError .unsupportedHeader))) ∧
      (14 ≤ b.length → headerTable (bitsToUnsigned (takeBits b 0 8)) ≠ none → bitsToUnsigned (takeBits b 11 3) = 7 →
        exec i s = .next (s.respond (Response.ofError .invalidPartition))) ∧
      (∀ name, 58 ≤ b.length → headerTable (bitsToUnsigned (takeBits b 0 8)) = some (.reserved name) →
        bitsToUnsigned (takeBits b 11 3) ≠ 7 →
        exec i s = .next (s.respond (Response.ofError (.notImplemented name))))

/-- R116, U5: the decodes the spec gives no value to are refused by name. -/
def Obligations.ShortImagesAreRefused : Prop :=
  ∀ (s : State) (h ser : Str) (i : Instr) (b : BitSeq), i ∈ decodingOps h ser → hexToBits h = some b →
    (b.length < 8 → exec i s = .refused .imageTooShort) ∧
    ∀ v, 8 ≤ b.length → headerTable (bitsToUnsigned (takeBits b 0 8)) = some v →
      (b.length < 14 → exec i s = .refused .imageTooShort) ∧
      (14 ≤ b.length → bitsToUnsigned (takeBits b 11 3) ≠ 7 →
        (b.length < 58 → exec i s = .refused .imageTooShort) ∧
        (v = .sscc96 → b.length < 72 → exec i s = .refused .imageTooShort) ∧
        (v = .sgtin96 → 58 ≤ b.length → b.length ≠ 96 → exec i s = .refused .sgtin96LengthNot96))

/-- R111: DEC of an SGTIN-96 image; the bits that remain must be exactly 38, another length has no outcome (U5); the serial
is always exactly 12 digits. -/
def Obligations.DecFillsTheSgtin96Map : Prop :=
  ∀ (s : State) (h : Str) (b : BitSeq) (p : Nat) (e : PartitionEntry), ImageIs .sgtin96 h b p e →
    (b.length = 96 →
      exec (.dec h) s = .next (s.respond (Response.ofTag
        { variant := .sgtin96, header := 48, filter := dec (bitsToUnsigned (takeBits b 8 3)), partition := p,
          companyPrefix := fieldText b 14 e.cpw (12 - p), itemReference := some (fieldText b (14 + e.cpw) e.irw (1 + p)),
          serialNumber := some (fieldText b 58 38 12) })) ∧
      (fieldText b 58 38 12).length = 12) ∧
    (58 ≤ b.length → b.length ≠ 96 → exec (.dec h) s = .refused .sgtin96LengthNot96)

/-- R114, R117: DEC of an SGTIN-198 image of any length that holds its fields; the serial is the 7-bit-decoded rest. -/
def Obligations.DecFillsTheSgtin198Map : Prop :=
  ∀ (s : State) (h : Str) (b : BitSeq) (p : Nat) (e : PartitionEntry), ImageIs .sgtin198 h b p e → 58 ≤ b.length →
    exec (.dec h) s = .next (s.respond (Response.ofTag
      { variant := .sgtin198, header := 54, filter := dec (bitsToUnsigned (takeBits b 8 3)), partition := p,
        companyPrefix := fieldText b 14 e.cpw (12 - p), itemReference := some (fieldText b (14 + e.cpw) e.irw (1 + p)),
        serialNumber := some (decode7bit (b.drop 58)) }))

/-- R113, R117: DEC of an SSCC-96 image of any length that holds its fields; the unallocated bits are not checked. -/
def Obligations.DecFillsTheSscc96Map : Prop :=
  ∀ (s : State) (h : Str) (b : BitSeq) (p : Nat) (e : PartitionEntry), ImageIs .sscc96 h b p e → 72 ≤ b.length →
    exec (.dec h) s = .next (s.respond (Response.ofTag
      { variant := .sscc96, header := 49, filter := dec (bitsToUnsigned (takeBits b 8 3)), partition := p,
        companyPrefix := fieldText b 14 e.cpw (12 - p),
        serialReference := some (fieldText b (14 + e.cpw) e.srw (5 + p)), unallocated := some (b.drop 72) }))

/-- R120: DEC.GTIN: the first digit of the item reference, the company prefix, the other digits, and the check digit; None
for an SSCC-96 image (R125: `present = 0`, status OK). -/
def Obligations.DecGtinAssemblesTheGtin : Prop :=
  ∀ (s : State) (h : Str) (b : BitSeq) (p : Nat) (e : PartitionEntry) (v : EncodingVariant), ImageIs v h b p e →
    LengthDecodes v b.length →
    (v = .sgtin96 ∨ v = .sgtin198 →
      exec (.decGtin h) s = .next (s.respond (Response.ofDerived (some (closedBy
        ((fieldText b (14 + e.cpw) e.irw (1 + p)).take 1 ++ fieldText b 14 e.cpw (12 - p) ++
          (fieldText b (14 + e.cpw) e.irw (1 + p)).drop 1)))))) ∧
    (v = .sscc96 → exec (.decGtin h) s = .next (s.respond { status := .ok, present := some false }))

/-- R121: DEC.SSCC: the same of the serial reference of an SSCC-96 image; None for an SGTIN image. -/
def Obligations.DecSsccAssemblesTheSscc : Prop :=
  ∀ (s : State) (h : Str) (b : BitSeq) (p : Nat) (e : PartitionEntry) (v : EncodingVariant), ImageIs v h b p e →
    LengthDecodes v b.length →
    (v = .sscc96 →
      exec (.decSscc h) s = .next (s.respond (Response.ofDerived (some (closedBy
        ((fieldText b (14 + e.cpw) e.srw (5 + p)).take 1 ++ fieldText b 14 e.cpw (12 - p) ++
          (fieldText b (14 + e.cpw) e.srw (5 + p)).drop 1)))))) ∧
    (v = .sgtin96 ∨ v = .sgtin198 → exec (.decSscc h) s = .next (s.respond { status := .ok, present := some false }))

/-- R122: DEC.SERIAL: the serial number of an SGTIN image, the whole serial reference of an SSCC-96 image. -/
def Obligations.DecSerialGivesTheSerial : Prop :=
  ∀ (s : State) (h : Str) (b : BitSeq) (p : Nat) (e : PartitionEntry) (v : EncodingVariant), ImageIs v h b p e →
    LengthDecodes v b.length →
    (v = .sgtin96 → exec (.decSerial h) s = .next (s.respond (Response.ofDerived (some (fieldText b 58 38 12))))) ∧
    (v = .sgtin198 → exec (.decSerial h) s = .next (s.respond (Response.ofDerived (some (decode7bit (b.drop 58)))))) ∧
    (v = .sscc96 →
      exec (.decSerial h) s = .next (s.respond (Response.ofDerived (some (fieldText b (14 + e.cpw) e.srw (5 + p))))))

/-- R120, R121, R77: every GTIN and SSCC the block delivers is one CHK.VALID answers 1 for. -/
def Obligations.DeliveredIdentifiersValidate : Prop :=
  ∀ (s u : State) (h text : Str),
    exec (.decGtin h) s = .next (s.respond (Response.ofDerived (some text))) ∨
      exec (.decSscc h) s = .next (s.respond (Response.ofDerived (some text))) →
    exec (.chkValid text) u = .next (u.respond (Response.ofValid true))

/-- R120, R121: with fields of their nominal digit counts the GTIN has 14 digits and the SSCC 18. -/
def Obligations.NominalFieldsGiveNominalIdentifiers : Prop :=
  ∀ (s : State) (h text : Str) (t : DecodedTag), exec (.dec h) s = .next (s.respond (Response.ofTag t)) →
    t.companyPrefix.length = 12 - t.partition →
    (t.itemReference.map List.length = some (1 + t.partition) →
      exec (.decGtin h) s = .next (s.respond (Response.ofDerived (some text))) →
      text.length = 14 ∧ isDigitStr text = true) ∧
    (t.serialReference.map List.length = some (5 + t.partition) →
      exec (.decSscc h) s = .next (s.respond (Response.ofDerived (some text))) →
      text.length = 18 ∧ isDigitStr text = true)

/-- R117: which fields a decode fills, by variant; the two others are never filled, and an absent field reads as none. -/
def Obligations.DecodeFillsTheFieldsOfItsVariant : Prop :=
  ∀ (s : State) (h : Str) (t : DecodedTag), exec (.dec h) s = .next (s.respond (Response.ofTag t)) →
    (∀ f ∈ [TagField.header, .filter, .partition, .companyPrefix], (t.read f).isSome = true) ∧
    (isDigitStr t.filter = true ∧ t.filter.length = 1 ∧ parseDec t.filter ≤ 7 ∧ t.partition ≤ 6) ∧
    t.read .individualAssetReference = none ∧ t.read .cageCode = none ∧
    (t.variant = .sgtin96 → t.read .header = some (.number 48)) ∧
    (t.variant = .sgtin198 → t.read .header = some (.number 54)) ∧
    (t.variant = .sgtin96 ∨ t.variant = .sgtin198 →
      (t.read .itemReference).isSome = true ∧ (t.read .serialNumber).isSome = true ∧ t.read .serialReference = none ∧
        t.read .unallocated = none) ∧
    (t.variant = .sscc96 → t.read .header = some (.number 49) ∧ (t.read .serialReference).isSome = true ∧
      (t.read .unallocated).isSome = true ∧ t.read .itemReference = none ∧ t.read .serialNumber = none) ∧
    (t.variant = .sgtin96 ∨ t.variant = .sgtin198 ∨ t.variant = .sscc96)

/-- R118: ENC.SGTIN96 then DEC: every field comes back, digit strings normalised by padding; a string of the nominal length, or a
longer one without a leading zero, comes back as it is. -/
def Obligations.Sgtin96RoundTrip : Prop :=
  ∀ (s u : State) (f p : Nat) (cp ir ser h : Str),
    exec (.encSgtin96 f p cp ir ser) s = .next (s.respond (Response.ofImage h)) →
    ∃ t, exec (.dec h) u = .next (u.respond (Response.ofTag t)) ∧ t.variant = .sgtin96 ∧ t.filter = dec f ∧
      t.partition = p ∧ parseDec t.companyPrefix = parseDec cp ∧ t.itemReference.map parseDec = some (parseDec ir) ∧
      t.serialNumber.map parseDec = some (parseDec ser) ∧ t.serialNumber.map List.length = some 12 ∧
      (cp.length = 12 - p ∨ 12 - p < cp.length ∧ cp.head? ≠ some 48#8 → t.companyPrefix = cp) ∧
      (ir.length = 1 + p ∨ 1 + p < ir.length ∧ ir.head? ≠ some 48#8 → t.itemReference = some ir)

/-- R118, R72, R153: ENC.SGTIN198 then DEC: the numeric fields come back; of the serial, codes 0 to 9 are dropped and the 20th
character loses its low two bits, so it comes back exactly when it has no code of 9 or less and fewer than 20
characters or a 20th character whose code is a multiple of 4. -/
def Obligations.Sgtin198RoundTrip : Prop :=
  ∀ (s u : State) (f p : Nat) (cp ir ser h : Str),
    exec (.encSgtin198 f p cp ir ser) s = .next (s.respond (Response.ofImage h)) →
    ∃ t, exec (.dec h) u = .next (u.respond (Response.ofTag t)) ∧ t.variant = .sgtin198 ∧ t.filter = dec f ∧
      t.partition = p ∧ parseDec t.companyPrefix = parseDec cp ∧ t.itemReference.map parseDec = some (parseDec ir) ∧
      (cp.length = 12 - p ∨ 12 - p < cp.length ∧ cp.head? ≠ some 48#8 → t.companyPrefix = cp) ∧
      (ir.length = 1 + p ∨ 1 + p < ir.length ∧ ir.head? ≠ some 48#8 → t.itemReference = some ir) ∧
      t.serialNumber = some (comesBack ser) ∧
      (t.serialNumber = some ser ↔ (∀ c ∈ ser, 9 < c.toNat) ∧ (ser.length = 20 → ∀ c ∈ ser.getLast?, c.toNat % 4 = 0))

/-- R118: ENC.SSCC96 then DEC: every field comes back, the 24 unallocated bits zero. -/
def Obligations.Sscc96RoundTrip : Prop :=
  ∀ (s u : State) (f p : Nat) (cp ext ser h : Str),
    exec (.encSscc96 f p cp ext ser) s = .next (s.respond (Response.ofImage h)) →
    ∃ t, exec (.dec h) u = .next (u.respond (Response.ofTag t)) ∧ t.variant = .sscc96 ∧ t.filter = dec f ∧
      t.partition = p ∧ parseDec t.companyPrefix = parseDec cp ∧
      t.serialReference.map parseDec = some (parseDec (ext ++ padLeftDigits ser (p + 4))) ∧
      t.unallocated = some (zeros 24) ∧
      (cp.length = 12 - p ∨ 12 - p < cp.length ∧ cp.head? ≠ some 48#8 → t.companyPrefix = cp)

/-- R111, R26: the seven SGTIN-96 rows of the table give the field map of rule R117, fields of the row's own widths rendered
in the row's own digit counts. -/
def Obligations.Sgtin96RowsGiveTheirMaps : Prop :=
  ∀ (s : State) (f : BitVec 3) (ser : BitVec 38),
    (∀ (cp : BitVec 40) (x : BitVec 4), exec (.sgtin96P0 f cp x ser) s =
      .next (s.respond (Response.ofTag
        { variant := .sgtin96, header := 48, filter := dec f.toNat, partition := 0,
          companyPrefix := padLeftDigits (dec cp.toNat) 12, itemReference := some (padLeftDigits (dec x.toNat) 1),
          serialNumber := some (padLeftDigits (dec ser.toNat) 12) }))) ∧
    (∀ (cp : BitVec 37) (x : BitVec 7), exec (.sgtin96P1 f cp x ser) s =
      .next (s.respond (Response.ofTag
        { variant := .sgtin96, header := 48, filter := dec f.toNat, partition := 1,
          companyPrefix := padLeftDigits (dec cp.toNat) 11, itemReference := some (padLeftDigits (dec x.toNat) 2),
          serialNumber := some (padLeftDigits (dec ser.toNat) 12) }))) ∧
    (∀ (cp : BitVec 34) (x : BitVec 10), exec (.sgtin96P2 f cp x ser) s =
      .next (s.respond (Response.ofTag
        { variant := .sgtin96, header := 48, filter := dec f.toNat, partition := 2,
          companyPrefix := padLeftDigits (dec cp.toNat) 10, itemReference := some (padLeftDigits (dec x.toNat) 3),
          serialNumber := some (padLeftDigits (dec ser.toNat) 12) }))) ∧
    (∀ (cp : BitVec 30) (x : BitVec 14), exec (.sgtin96P3 f cp x ser) s =
      .next (s.respond (Response.ofTag
        { variant := .sgtin96, header := 48, filter := dec f.toNat, partition := 3,
          companyPrefix := padLeftDigits (dec cp.toNat) 9, itemReference := some (padLeftDigits (dec x.toNat) 4),
          serialNumber := some (padLeftDigits (dec ser.toNat) 12) }))) ∧
    (∀ (cp : BitVec 27) (x : BitVec 17), exec (.sgtin96P4 f cp x ser) s =
      .next (s.respond (Response.ofTag
        { variant := .sgtin96, header := 48, filter := dec f.toNat, partition := 4,
          companyPrefix := padLeftDigits (dec cp.toNat) 8, itemReference := some (padLeftDigits (dec x.toNat) 5),
          serialNumber := some (padLeftDigits (dec ser.toNat) 12) }))) ∧
    (∀ (cp : BitVec 24) (x : BitVec 20), exec (.sgtin96P5 f cp x ser) s =
      .next (s.respond (Response.ofTag
        { variant := .sgtin96, header := 48, filter := dec f.toNat, partition := 5,
          companyPrefix := padLeftDigits (dec cp.toNat) 7, itemReference := some (padLeftDigits (dec x.toNat) 6),
          serialNumber := some (padLeftDigits (dec ser.toNat) 12) }))) ∧
    (∀ (cp : BitVec 20) (x : BitVec 24), exec (.sgtin96P6 f cp x ser) s =
      .next (s.respond (Response.ofTag
        { variant := .sgtin96, header := 48, filter := dec f.toNat, partition := 6,
          companyPrefix := padLeftDigits (dec cp.toNat) 6, itemReference := some (padLeftDigits (dec x.toNat) 7),
          serialNumber := some (padLeftDigits (dec ser.toNat) 12) })))

/-- R114, R26: the seven SGTIN-198 rows of the table. -/
def Obligations.Sgtin198RowsGiveTheirMaps : Prop :=
  ∀ (s : State) (f : BitVec 3) (rest : BitSeq),
    (∀ (cp : BitVec 40) (x : BitVec 4), exec (.sgtin198P0 f cp x rest) s =
      .next (s.respond (Response.ofTag
        { variant := .sgtin198, header := 54, filter := dec f.toNat, partition := 0,
          companyPrefix := padLeftDigits (dec cp.toNat) 12, itemReference := some (padLeftDigits (dec x.toNat) 1),
          serialNumber := some (decode7bit rest) }))) ∧
    (∀ (cp : BitVec 37) (x : BitVec 7), exec (.sgtin198P1 f cp x rest) s =
      .next (s.respond (Response.ofTag
        { variant := .sgtin198, header := 54, filter := dec f.toNat, partition := 1,
          companyPrefix := padLeftDigits (dec cp.toNat) 11, itemReference := some (padLeftDigits (dec x.toNat) 2),
          serialNumber := some (decode7bit rest) }))) ∧
    (∀ (cp : BitVec 34) (x : BitVec 10), exec (.sgtin198P2 f cp x rest) s =
      .next (s.respond (Response.ofTag
        { variant := .sgtin198, header := 54, filter := dec f.toNat, partition := 2,
          companyPrefix := padLeftDigits (dec cp.toNat) 10, itemReference := some (padLeftDigits (dec x.toNat) 3),
          serialNumber := some (decode7bit rest) }))) ∧
    (∀ (cp : BitVec 30) (x : BitVec 14), exec (.sgtin198P3 f cp x rest) s =
      .next (s.respond (Response.ofTag
        { variant := .sgtin198, header := 54, filter := dec f.toNat, partition := 3,
          companyPrefix := padLeftDigits (dec cp.toNat) 9, itemReference := some (padLeftDigits (dec x.toNat) 4),
          serialNumber := some (decode7bit rest) }))) ∧
    (∀ (cp : BitVec 27) (x : BitVec 17), exec (.sgtin198P4 f cp x rest) s =
      .next (s.respond (Response.ofTag
        { variant := .sgtin198, header := 54, filter := dec f.toNat, partition := 4,
          companyPrefix := padLeftDigits (dec cp.toNat) 8, itemReference := some (padLeftDigits (dec x.toNat) 5),
          serialNumber := some (decode7bit rest) }))) ∧
    (∀ (cp : BitVec 24) (x : BitVec 20), exec (.sgtin198P5 f cp x rest) s =
      .next (s.respond (Response.ofTag
        { variant := .sgtin198, header := 54, filter := dec f.toNat, partition := 5,
          companyPrefix := padLeftDigits (dec cp.toNat) 7, itemReference := some (padLeftDigits (dec x.toNat) 6),
          serialNumber := some (decode7bit rest) }))) ∧
    (∀ (cp : BitVec 20) (x : BitVec 24), exec (.sgtin198P6 f cp x rest) s =
      .next (s.respond (Response.ofTag
        { variant := .sgtin198, header := 54, filter := dec f.toNat, partition := 6,
          companyPrefix := padLeftDigits (dec cp.toNat) 6, itemReference := some (padLeftDigits (dec x.toNat) 7),
          serialNumber := some (decode7bit rest) })))

/-- R113, R26: the seven SSCC-96 rows of the table. -/
def Obligations.Sscc96RowsGiveTheirMaps : Prop :=
  ∀ (s : State) (f : BitVec 3) (rest : BitSeq),
    (∀ (cp : BitVec 40) (x : BitVec 18), exec (.sscc96P0 f cp x rest) s =
      .next (s.respond (Response.ofTag
        { variant := .sscc96, header := 49, filter := dec f.toNat, partition := 0,
          companyPrefix := padLeftDigits (dec cp.toNat) 12, serialReference := some (padLeftDigits (dec x.toNat) 5),
          unallocated := some rest }))) ∧
    (∀ (cp : BitVec 37) (x : BitVec 21), exec (.sscc96P1 f cp x rest) s =
      .next (s.respond (Response.ofTag
        { variant := .sscc96, header := 49, filter := dec f.toNat, partition := 1,
          companyPrefix := padLeftDigits (dec cp.toNat) 11, serialReference := some (padLeftDigits (dec x.toNat) 6),
          unallocated := some rest }))) ∧
    (∀ (cp : BitVec 34) (x : BitVec 24), exec (.sscc96P2 f cp x rest) s =
      .next (s.respond (Response.ofTag
        { variant := .sscc96, header := 49, filter := dec f.toNat, partition := 2,
          companyPrefix := padLeftDigits (dec cp.toNat) 10, serialReference := some (padLeftDigits (dec x.toNat) 7),
          unallocated := some rest }))) ∧
    (∀ (cp : BitVec 30) (x : BitVec 28), exec (.sscc96P3 f cp x rest) s =
      .next (s.respond (Response.ofTag
        { variant := .sscc96, header := 49, filter := dec f.toNat, partition := 3,
          companyPrefix := padLeftDigits (dec cp.toNat) 9, serialReference := some (padLeftDigits (dec x.toNat) 8),
          unallocated := some rest }))) ∧
    (∀ (cp : BitVec 27) (x : BitVec 31), exec (.sscc96P4 f cp x rest) s =
      .next (s.respond (Response.ofTag
        { variant := .sscc96, header := 49, filter := dec f.toNat, partition := 4,
          companyPrefix := padLeftDigits (dec cp.toNat) 8, serialReference := some (padLeftDigits (dec x.toNat) 9),
          unallocated := some rest }))) ∧
    (∀ (cp : BitVec 24) (x : BitVec 34), exec (.sscc96P5 f cp x rest) s =
      .next (s.respond (Response.ofTag
        { variant := .sscc96, header := 49, filter := dec f.toNat, partition := 5,
          companyPrefix := padLeftDigits (dec cp.toNat) 7, serialReference := some (padLeftDigits (dec x.toNat) 10),
          unallocated := some rest }))) ∧
    (∀ (cp : BitVec 20) (x : BitVec 38), exec (.sscc96P6 f cp x rest) s =
      .next (s.respond (Response.ofTag
        { variant := .sscc96, header := 49, filter := dec f.toNat, partition := 6,
          companyPrefix := padLeftDigits (dec cp.toNat) 6, serialReference := some (padLeftDigits (dec x.toNat) 11),
          unallocated := some rest })))

/-- R112, R108, R32: the six reserved rows end in NotImplemented with the variant the row names (the pairing of names and bytes
is rule R32's own choice, log entry 10). The last two clauses speak of ill-formed terms no image decodes to, the model's
choice of log entry 20: partition bits 111 are InvalidPartition first (log entry 13), fewer than 58 bits are refused. -/
def Obligations.ReservedRowsAreNotImplemented : Prop :=
  ∀ (s : State) (f p : BitVec 3) (rest : BitSeq) (i : Instr) (name : ReservedName),
    (i, name) ∈ [(Instr.reservedDod64 f p rest, ReservedName.dod64), (.reservedDod96 f p rest, .dod96),
      (.reservedGln96 f p rest, .gln96), (.reservedGrai96 f p rest, .grai96), (.reservedGiai96 f p rest, .giai96),
      (.reservedGid96 f p rest, .gid96)] →
    (p ≠ 7#3 → 44 ≤ rest.length →
      exec i s = .next (s.respond { status := .notImplemented, variant := some (.reserved name) })) ∧
    (p = 7#3 → exec i s = .next (s.respond { status := .invalidPartition })) ∧
    (p ≠ 7#3 → rest.length < 44 → exec i s = .refused .imageTooShort)

/-- R106, R108: the row of the 247 other header bytes answers UnsupportedHeader, the row of partition 7 InvalidPartition under
every header of the table, the reserved ones included (log entry 13). The first clause also covers the ill-formed rows
whose header is in the table, which no image decodes to: the model's choice of log entry 20. -/
def Obligations.UnsupportedAndPartitionSevenRows : Prop :=
  ∀ (s : State) (header : BitVec 8) (f : BitVec 3) (rest : BitSeq),
    exec (.unsupported header rest) s = .next (s.respond { status := .unsupportedHeader }) ∧
    (headerTable header.toNat ≠ none →
      exec (.partition7 header f rest) s = .next (s.respond { status := .invalidPartition }))

/-- R150: a transaction in progress at a reset is abandoned: of a run over `w` and the words behind it that completes, exactly
the response of `w` is lost, and every later word has the response it has without the reset. The queue, the trace and
their outlasting a reset are the model's choice (log entries 1, 2 and 4). -/
def Obligations.AbandonedTransactionLosesItsResponseOnly : Prop :=
  ∀ (s t : State) (w : Presented) (rest : List Presented), s.requests = w :: rest →
    core.run (rest.length + 1) s = .next t →
    ∃ (t' : State) (r : Response) (later : List Transaction),
      core.run rest.length s.abandonTransaction = .next t' ∧ t'.requests = [] ∧
      t.history = s.history ++ ⟨w, r⟩ :: later ∧ t'.history = s.history ++ later ∧
      later.map Transaction.request = rest ∧ (rest = [] → t'.rsp = none) ∧ (rest ≠ [] → t'.rsp = t.rsp)
end

