-- ==== Sys2Proof/Laws/State.lean ====
section
/-! SUPPORT. One lemma per field per update of State, and the results each kind of response holds; all true by unfolding. -/

namespace Sys2Proof.Machine

open Sys2Proof

@[simp] theorem respond_rsp (s : State) (r : Response) : (s.respond r).rsp = some r := rfl
@[simp] theorem respond_requests (s : State) (r : Response) : (s.respond r).requests = s.requests := rfl
@[simp] theorem respond_history (s : State) (r : Response) : (s.respond r).history = s.history := rfl
@[simp] theorem respond_respond (s : State) (r q : Response) : (s.respond r).respond q = s.respond q := rfl

@[simp] theorem applyReset_rsp (s : State) : s.applyReset.rsp = none := rfl
@[simp] theorem applyReset_requests (s : State) : s.applyReset.requests = s.requests := rfl
@[simp] theorem applyReset_history (s : State) : s.applyReset.history = s.history := rfl

@[simp] theorem abandonTransaction_rsp (s : State) : s.abandonTransaction.rsp = none := rfl
@[simp] theorem abandonTransaction_requests (s : State) : s.abandonTransaction.requests = s.requests.tail := rfl
@[simp] theorem abandonTransaction_history (s : State) : s.abandonTransaction.history = s.history := rfl

@[simp] theorem record_respond_rsp (s : State) (r : Response) (w : Presented) :
    ((s.respond r).record w).rsp = some r := rfl
@[simp] theorem record_respond_requests (s : State) (r : Response) (w : Presented) :
    ((s.respond r).record w).requests = s.requests := rfl
@[simp] theorem record_respond_history (s : State) (r : Response) (w : Presented) :
    ((s.respond r).record w).history = s.history ++ [⟨w, r⟩] := rfl

@[simp] theorem withFetchWord_requests (s : State) (nbits w : Nat) :
    (s.withFetchWord nbits w).requests = tableWord nbits w :: s.requests := rfl
@[simp] theorem withFetchWord_rsp (s : State) (nbits w : Nat) : (s.withFetchWord nbits w).rsp = s.rsp := rfl
@[simp] theorem withFetchWord_history (s : State) (nbits w : Nat) :
    (s.withFetchWord nbits w).history = s.history := rfl

@[simp] theorem reset_requests : State.reset.requests = [] := rfl
@[simp] theorem reset_rsp : State.reset.rsp = none := rfl
@[simp] theorem reset_history : State.reset.history = [] := rfl

@[simp] theorem ofError_status (e : Error) : (Response.ofError e).status = e.status := rfl
@[simp] theorem ofError_variant (e : Error) : (Response.ofError e).variant = e.variant := rfl
@[simp] theorem ofImage_status (h : Str) : (Response.ofImage h).status = .ok := rfl
@[simp] theorem ofImage_image (h : Str) : (Response.ofImage h).image = some h := rfl
@[simp] theorem ofTag_status (t : DecodedTag) : (Response.ofTag t).status = .ok := rfl
@[simp] theorem ofTag_tag (t : DecodedTag) : (Response.ofTag t).tag = some t := rfl
@[simp] theorem ofDerived_status (r : Option Str) : (Response.ofDerived r).status = .ok := rfl
@[simp] theorem ofDerived_present (r : Option Str) : (Response.ofDerived r).present = some r.isSome := rfl
@[simp] theorem ofDerived_text (r : Option Str) : (Response.ofDerived r).text = r := rfl
@[simp] theorem ofDigit_status (d : Nat) : (Response.ofDigit d).status = .ok := rfl
@[simp] theorem ofDigit_digit (d : Nat) : (Response.ofDigit d).digit = some d := rfl
@[simp] theorem ofValid_status (v : Bool) : (Response.ofValid v).status = .ok := rfl
@[simp] theorem ofValid_valid (v : Bool) : (Response.ofValid v).valid = some v := rfl

/-- No raised error has the status OK. -/
theorem Error.status_ne_ok (e : Error) : e.status ≠ .ok := by cases e <;> simp [Error.status]

end Sys2Proof.Machine
end

