-- ==== Sys2Proof/Laws/Ops.lean ====
section
/-! SUPPORT. What each shared operation that ends a transaction can do, said once; the meanings' provers cite these. -/

namespace Sys2Proof.Machine

open Sys2Proof

@[simp] theorem raise_eq (e : Error) (s : State) : raise e s = .next (s.respond (Response.ofError e)) := rfl
@[simp] theorem refuse_eq (r : Refusal) : refuse r = .refused r := rfl
@[simp] theorem finish_ok (r : Response) (s : State) : finish (.ok r) s = .next (s.respond r) := rfl
@[simp] theorem finish_raise (e : Error) (s : State) :
    finish (.error (.raise e)) s = .next (s.respond (Response.ofError e)) := rfl
@[simp] theorem finish_refuse (x : Refusal) (s : State) : finish (.error (.refuse x)) s = .refused x := rfl
@[simp] theorem answerTag_eq (t : DecodedTag) (s : State) : answerTag t s = .next (s.respond (Response.ofTag t)) := rfl

/-- Everything `finish` can do: a next state holds the rule's own response, or the response of the error it raised. -/
theorem finish_next {r : Checked Response} {s t : State} (h : finish r s = .next t) :
    (∃ q, r = .ok q ∧ t = s.respond q) ∨ (∃ e, r = .error (.raise e) ∧ t = s.respond (Response.ofError e)) := by
  rcases r with ((e | x) | q)
  · exact .inr ⟨e, rfl, by simpa using h.symm⟩
  · simp at h
  · exact .inl ⟨q, rfl, by simpa using h.symm⟩

/-- `finish` refuses exactly where the rule does. -/
theorem finish_refused {r : Checked Response} {s : State} {x : Refusal} (h : finish r s = .refused x) :
    r = .error (.refuse x) := by
  rcases r with ((e | y) | q)
  · simp at h
  · simpa using h
  · simp at h

theorem answerImage_of_ok {r : Checked Str} {img : Str} (h : r = .ok img) (s : State) :
    answerImage r s = .next (s.respond (Response.ofImage img)) := by rw [h]; rfl
theorem answerImage_of_raise {r : Checked Str} {e : Error} (h : r = .error (.raise e)) (s : State) :
    answerImage r s = .next (s.respond (Response.ofError e)) := by rw [h]; rfl
theorem answerImage_of_refuse {r : Checked Str} {x : Refusal} (h : r = .error (.refuse x)) (s : State) :
    answerImage r s = .refused x := by rw [h]; rfl
theorem execDec_of_ok {image : Str} {t : DecodedTag} (h : decodeTag image = .ok t) (s : State) :
    execDec image s = .next (s.respond (Response.ofTag t)) := by rw [execDec, h]; rfl
theorem execDec_of_raise {image : Str} {e : Error} (h : decodeTag image = .error (.raise e)) (s : State) :
    execDec image s = .next (s.respond (Response.ofError e)) := by rw [execDec, h]; rfl
theorem execDec_of_refuse {image : Str} {x : Refusal} (h : decodeTag image = .error (.refuse x)) (s : State) :
    execDec image s = .refused x := by rw [execDec, h]; rfl
theorem answerDerived_of_ok {f : DecodedTag → Checked (Option Str)} {image : Str} {t : DecodedTag} {r : Option Str}
    (h : decodeTag image = .ok t) (hf : f t = .ok r) (s : State) :
    answerDerived f image s = .next (s.respond (Response.ofDerived r)) := by
  simp only [answerDerived, h, bind, Except.bind, hf]; rfl
theorem answerDerived_of_raise {f : DecodedTag → Checked (Option Str)} {image : Str} {e : Error}
    (h : decodeTag image = .error (.raise e)) (s : State) :
    answerDerived f image s = .next (s.respond (Response.ofError e)) := by rw [answerDerived, h]; rfl
theorem answerDerived_of_refuse {f : DecodedTag → Checked (Option Str)} {image : Str} {x : Refusal}
    (h : decodeTag image = .error (.refuse x)) (s : State) : answerDerived f image s = .refused x := by
  rw [answerDerived, h]; rfl

/-- Everything an operation that ends in an image can do. -/
theorem answerImage_next {r : Checked Str} {s t : State} (h : answerImage r s = .next t) :
    (∃ img, r = .ok img ∧ t = s.respond (Response.ofImage img)) ∨
      (∃ e, r = .error (.raise e) ∧ t = s.respond (Response.ofError e)) := by
  rcases r with ((e | x) | img)
  · exact .inr ⟨e, rfl, by simpa [answerImage, Except.map] using h.symm⟩
  · simp [answerImage, Except.map] at h
  · exact .inl ⟨img, rfl, by simpa [answerImage, Except.map] using h.symm⟩

/-- Everything DEC can do. -/
theorem execDec_next {image : Str} {s t : State} (h : execDec image s = .next t) :
    (∃ tag, decodeTag image = .ok tag ∧ t = s.respond (Response.ofTag tag)) ∨
      (∃ e, decodeTag image = .error (.raise e) ∧ t = s.respond (Response.ofError e)) := by
  unfold execDec at h
  rcases hd : decodeTag image with ((e | x) | tag) <;> rw [hd] at h
  · exact .inr ⟨e, rfl, by simpa [Except.map] using h.symm⟩
  · simp [Except.map] at h
  · exact .inl ⟨tag, rfl, by simpa [Except.map] using h.symm⟩

/-- Everything a derivation can do: the derived value is delivered, or the decode's error, or its own, ends it. -/
theorem answerDerived_next {f : DecodedTag → Checked (Option Str)} {image : Str} {s t : State}
    (h : answerDerived f image s = .next t) :
    (∃ tag r, decodeTag image = .ok tag ∧ f tag = .ok r ∧ t = s.respond (Response.ofDerived r)) ∨
      (∃ e, (decodeTag image = .error (.raise e) ∨ ∃ tag, decodeTag image = .ok tag ∧ f tag = .error (.raise e)) ∧
        t = s.respond (Response.ofError e)) := by
  unfold answerDerived at h
  rcases hd : decodeTag image with ((e | x) | tag) <;> simp only [hd, bind, Except.bind] at h
  · exact .inr ⟨e, .inl rfl, by simpa [Except.map] using h.symm⟩
  · simp [Except.map] at h
  · rcases hf : f tag with ((e | x) | r) <;> simp only [hf] at h
    · exact .inr ⟨e, .inr ⟨tag, rfl, hf⟩, by simpa [Except.map] using h.symm⟩
    · simp [Except.map] at h
    · exact .inl ⟨tag, r, rfl, hf, by simpa [Except.map] using h.symm⟩

/-- Everything a reserved image row can do. -/
theorem answerReserved_next {name : ReservedName} {p : BitVec 3} {rest : BitSeq} {s t : State}
    (h : answerReserved name p rest s = .next t) :
    t = s.respond (Response.ofError .invalidPartition) ∨
      (44 ≤ rest.length ∧ t = s.respond (Response.ofError (.notImplemented name))) := by
  unfold answerReserved at h
  split at h
  · exact .inl (by simpa using h.symm)
  · split at h
    · simp at h
    · exact .inr ⟨by omega, by simpa using h.symm⟩

/-- A transaction records exactly the response its answer left on the port. -/
theorem recorded_next {w : Presented} {a : Answer} {t : State} (h : recorded w a = .next t) :
    ∃ u, a = .next u ∧ t = u.record w := by
  cases a with
  | next u => exact ⟨u, rfl, by simpa [recorded] using h.symm⟩
  | fault f => exact nomatch f
  | refused r => simp [recorded] at h

/-- Everything a step can do: nothing on an idle block, else one transaction on the oldest presented word. -/
theorem step_next {s t : State} (h : step s = .next t) :
    (s.requests = [] ∧ t = s) ∨
      (∃ w rest u, s.requests = w :: rest ∧ answer w { s with requests := rest } = .next u ∧ t = u.record w) := by
  unfold step at h
  split at h
  · exact .inl ⟨‹_›, by simpa using h.symm⟩
  · obtain ⟨u, hu, ht⟩ := recorded_next h
    exact .inr ⟨_, _, u, ‹_›, hu, ht⟩

end Sys2Proof.Machine
end

