-- ==== Sys2Proof/Laws/Answer.lean ====
section
/-! SUPPORT. What a meaning, and a presented word, answers does not depend on the state it runs in; one step of a run. -/

namespace Sys2Proof.Machine

open Sys2Proof

theorem finish_of_reply {c : Checked Response} {s' : State} {r : Response}
    (h : reply (finish c s') = .port (some r)) (s : State) : finish c s = .next (s.respond r) := by
  rcases c with ((e | x) | q)
  · simp [reply] at h; simp [h]
  · simp [reply] at h
  · simp [reply] at h; simp [h]

theorem raise_of_reply {e : Error} {s' : State} {r : Response} (h : reply (raise e s') = .port (some r)) (s : State) :
    raise e s = .next (s.respond r) := by
  simp [reply] at h; simp [h]

theorem answerReserved_of_reply {name : ReservedName} {p : BitVec 3} {rest : BitSeq} {s' : State} {r : Response}
    (h : reply (answerReserved name p rest s') = .port (some r)) (s : State) :
    answerReserved name p rest s = .next (s.respond r) := by
  unfold answerReserved at h ⊢
  cases hp : partitionEntry p.toNat with
  | none => simp only [hp] at h; exact raise_of_reply h s
  | some e =>
    simp only [hp] at h ⊢
    by_cases hl : 14 + rest.length < 58
    · simp [hl, reply] at h
    · rw [if_neg hl] at h ⊢; exact raise_of_reply h s

/-- An instruction that answers `r` in one state answers it in every state. -/
theorem exec_of_reply {i : Instr} {s' : State} {r : Response} (h : reply (exec i s') = .port (some r)) (s : State) :
    exec i s = .next (s.respond r) := by
  cases i
  case partition7 header f rest =>
    change reply (execPartition7 header f rest s') = _ at h
    change execPartition7 header f rest s = _
    unfold execPartition7 at h ⊢
    cases hh : headerTable header.toNat with
    | none => simp only [hh] at h; exact raise_of_reply h s
    | some v => simp only [hh] at h; exact raise_of_reply h s
  case unsupported => exact raise_of_reply h s
  all_goals first
    | exact finish_of_reply h s
    | exact finish_of_reply (c := .ok _) h s
    | exact answerReserved_of_reply h s

/-- A next state of `exec` has a response on the port. -/
theorem exec_response {i : Instr} {s t : State} (h : exec i s = .next t) : ∃ r, t.rsp = some r := by
  have key : ∀ (c : Checked Response), finish c s = .next t → ∃ r, t.rsp = some r := by
    intro c hc
    rcases finish_next hc with ⟨q, _, rfl⟩ | ⟨e, _, rfl⟩ <;> exact ⟨_, rfl⟩
  have reserved : ∀ name p rest, answerReserved name p rest s = .next t → ∃ r, t.rsp = some r := by
    intro name p rest hc
    rcases answerReserved_next hc with rfl | ⟨_, rfl⟩ <;> exact ⟨_, rfl⟩
  have raised : ∀ e, raise e s = .next t → ∃ r, t.rsp = some r := by
    intro e he
    rw [raise_eq, Host.Outcome.next.injEq] at he
    exact ⟨_, by rw [← he]; rfl⟩
  cases i
  case partition7 header f rest =>
    change execPartition7 header f rest s = _ at h
    unfold execPartition7 at h
    cases hh : headerTable header.toNat <;> simp only [hh] at h <;> exact raised _ h
  case unsupported => exact raised _ h
  all_goals first
    | exact key _ h
    | exact key (.ok _) h
    | exact reserved _ _ _ h

/-- The same of a presented word, an instruction or none. -/
theorem answer_of_reply {w : Presented} {s' : State} {r : Response} (h : reply (answer w s') = .port (some r))
    (s : State) : answer w s = .next (s.respond r) := by
  unfold answer at h ⊢
  cases hd : decode w with
  | ok i => simp only [hd] at h; exact exec_of_reply h s
  | error e =>
    simp only [hd] at h
    cases e with
    | malformedHex => exact raise_of_reply h s
    | imageTooShort => simp [reject, reply] at h
    | sgtin96LengthNot96 => simp [reject, reply] at h
    | reservedSelect => simp [reject, reply] at h

/-- A word whose answer is a next state has one response, in every state. -/
theorem answer_response {w : Presented} {s u : State} (h : answer w s = .next u) :
    ∃ r, ∀ s' : State, answer w s' = .next (s'.respond r) := by
  obtain ⟨r, hr⟩ : ∃ r, u.rsp = some r := by
    unfold answer at h
    cases hd : decode w with
    | error e =>
      simp only [hd] at h
      cases e <;> simp [reject] at h
      exact ⟨_, by rw [← h]; rfl⟩
    | ok i =>
      simp only [hd] at h
      exact exec_response h
  exact ⟨r, fun s' => answer_of_reply (s' := s) (by rw [h]; simp [reply, hr]) s'⟩

/-- One step of a run. -/
theorem run_succ {s u : State} (k : Nat) (h : step s = .next u) : core.run (k + 1) s = core.run k u := by
  have h' : core.step s = .next u := h
  simp only [Host.Core.run, h']

/-- A run that completes has a first step that does. -/
theorem run_succ_next {s t : State} {k : Nat} (h : core.run (k + 1) s = .next t) :
    ∃ u, step s = .next u ∧ core.run k u = .next t := by
  cases hs : step s with
  | next u => exact ⟨u, rfl, by rw [← run_succ k hs]; exact h⟩
  | fault f => exact nomatch f
  | refused x =>
    have h' : core.step s = .refused x := hs
    simp only [Host.Core.run, h'] at h
    cases h

/-- The step on a presented word is its transaction. -/
theorem step_of_requests {s : State} {w : Presented} {rest : List Presented} (h : s.requests = w :: rest) :
    step s = recorded w (answer w { s with requests := rest }) := by simp [step, h, transact]

end Sys2Proof.Machine
end

