-- ==== Sys2Proof/Laws/BitString.lean ====
section
/-! SUPPORT. The small lemmas of the BitString Codec: lengths, unfoldings, and how groups and fields sit in a concatenation. -/

namespace Sys2Proof

@[simp] theorem zeros_length (n : Nat) : (zeros n).length = n := by simp [zeros]

@[simp] theorem lowBits_length (w v : Nat) : (lowBits w v).length = w := by
  induction w generalizing v with
  | zero => rfl
  | succ w ih => simp [lowBits, ih]

@[simp] theorem nibble_length (v : Nat) : (nibble v).length = 4 := rfl

theorem padLeft_length {α : Type} (z : α) (s : List α) (w : Nat) : (padLeft z s w).length = max w s.length := by
  simp [padLeft]; omega

theorem padLeft_of_length_le {α : Type} (z : α) (s : List α) (w : Nat) (h : w ≤ s.length) : padLeft z s w = s := by
  simp [padLeft, Nat.sub_eq_zero_of_le h]

theorem padRight_length (b : BitSeq) (w : Nat) : (padRight b w).length = max w b.length := by
  simp [padRight]; omega

@[simp] theorem bitsToUnsigned_nil : bitsToUnsigned [] = 0 := rfl

theorem bitsToUnsigned_append (a b : BitSeq) :
    bitsToUnsigned (a ++ b) = bitsToUnsigned a * 2 ^ b.length + bitsToUnsigned b := by
  have key : ∀ (l : BitSeq) (n : Nat),
      l.foldl (fun v x => 2 * v + x.toNat) n = n * 2 ^ l.length + l.foldl (fun v x => 2 * v + x.toNat) 0 := by
    intro l
    induction l with
    | nil => simp
    | cons x xs ih =>
      intro n
      simp only [List.foldl_cons, List.length_cons]
      rw [ih (2 * n + x.toNat), ih (2 * 0 + x.toNat)]
      ring
  unfold bitsToUnsigned
  rw [List.foldl_append, key]

@[simp] theorem groups_nil (w n : Nat) : groups w n [] = [] := by cases n <;> rfl

/-- The groups of a whole group followed by more bits. -/
theorem groupsOf_append (w : Nat) (a b : BitSeq) (hw : 0 < w) (ha : a.length = w) :
    groupsOf w (a ++ b) = a :: groupsOf w b := by
  have more : ∀ (n m : Nat) (c : BitSeq), c.length ≤ n → c.length ≤ m → groups w n c = groups w m c := by
    intro n
    induction n with
    | zero => intro m c hn _; rw [List.eq_nil_of_length_eq_zero (Nat.le_zero.1 hn)]; simp
    | succ n ih =>
      intro m c hn hm
      rcases c with _ | ⟨x, xs⟩
      · simp
      · rcases m with _ | m
        · simp at hm
        · simp only [groups, List.isEmpty_cons, Bool.false_eq_true, if_false]
          rw [ih m] <;> simp only [List.length_drop] <;> simp only [List.length_cons] at hn hm ⊢ <;> omega
  unfold groupsOf
  have hl : (a ++ b).length = (w - 1 + b.length) + 1 := by simp [ha]; omega
  rw [hl]
  have hne : (a ++ b).isEmpty = false := by
    rcases a with _ | ⟨x, xs⟩
    · simp at ha; omega
    · rfl
  simp only [groups, hne, Bool.false_eq_true, if_false]
  rw [List.take_left' ha, List.drop_left' ha, more (w - 1 + b.length) b.length b (by omega) (Nat.le_refl _)]

@[simp] theorem groupsOf_nil (w : Nat) : groupsOf w [] = [] := by simp [groupsOf]

@[simp] theorem bitsToHex_nil : bitsToHex [] = [] := rfl

/-- R52 on a whole nibble followed by more bits. -/
theorem bitsToHex_append (a b : BitSeq) (ha : a.length = 4) :
    bitsToHex (a ++ b) = hexChar (bitsToUnsigned a) :: bitsToHex b := by
  simp [bitsToHex, groupsOf_append 4 a b (by decide) ha]

theorem hexToBits_cons {c : Chr} {cs : Str} {v : Nat} {b : BitSeq} (hc : hexDigit? c = some v)
    (hs : hexToBits cs = some b) : hexToBits (c :: cs) = some (nibble v ++ b) := by
  simp [hexToBits, hc, hs]

/-- A read that starts after `a` reads what follows it (R23: the offset of a field is the sum of the widths before it). -/
theorem takeBits_append_right (a b : BitSeq) (off w : Nat) :
    takeBits (a ++ b) (a.length + off) w = takeBits b off w := by
  rw [takeBits, ← List.drop_drop, List.drop_left, takeBits]

/-- A read of exactly the first field. -/
theorem takeBits_append_left (a b : BitSeq) : takeBits (a ++ b) 0 a.length = a := by
  simp [takeBits]

theorem takeBits_length (b : BitSeq) (off w : Nat) (h : off + w ≤ b.length) : (takeBits b off w).length = w := by
  simp [takeBits]; omega

end Sys2Proof
end

