-- ==== Sys2Proof/Laws/Checks.lean ====
section
/-! SUPPORT. When each operand check passes, what it gives, and how else it can end. -/

namespace Sys2Proof.Machine

open Sys2Proof

/-- R75: up to a sum of 1000 the check digit is the rule's own. -/
theorem weightedChecksum_of_le {d : Str} (h : weightedSum d ≤ 1000) :
    weightedChecksum d = .ok ((1000 - weightedSum d) % 10) := by simp [weightedChecksum, h]

/-- R78: above a sum of 1000 it is refused. -/
theorem weightedChecksum_of_gt {d : Str} (h : 1000 < weightedSum d) :
    weightedChecksum d = .error (.refuse .checksumSumOver1000) := by simp [weightedChecksum, Nat.not_le.2 h]

/-- Everything a check-digit computation can do; the digit is 0 to 9 (R14, R75). -/
theorem weightedChecksum_cases (d : Str) :
    (∃ v ≤ 9, weightedSum d ≤ 1000 ∧ v = (1000 - weightedSum d) % 10 ∧ weightedChecksum d = .ok v) ∨
    (1000 < weightedSum d ∧ weightedChecksum d = .error (.refuse .checksumSumOver1000)) := by
  by_cases h : weightedSum d ≤ 1000
  · exact .inl ⟨_, by omega, h, rfl, weightedChecksum_of_le h⟩
  · exact .inr ⟨Nat.lt_of_not_le h, weightedChecksum_of_gt (Nat.lt_of_not_le h)⟩

/-- R77: the predicate on a non-empty digit string. -/
theorem validate_append {d : Str} {c : Chr} (hd : d.all isDigit = true) (hc : isDigit c = true) :
    validate (d ++ [c]) = (weightedChecksum d).map fun v => v == digitVal c := by
  have h : isDigitStr (d ++ [c]) = true := by simp_all [isDigitStr]
  simp [validate, h]

/-- R77: the predicate on any other string. -/
theorem validate_of_not {s : Str} (h : isDigitStr s = false) : validate s = .ok false := by simp [validate, h]

/-- R120, R121: an identifier is delivered where the check digit of its digits is. -/
theorem identifier_of_le {ref companyPrefix : Str}
    (h : weightedSum (ref.take 1 ++ companyPrefix ++ ref.drop 1) ≤ 1000) :
    identifier (some ref) companyPrefix = .ok (some (ref.take 1 ++ companyPrefix ++ ref.drop 1 ++
      [digitChar ((1000 - weightedSum (ref.take 1 ++ companyPrefix ++ ref.drop 1)) % 10)])) := by
  simp only [identifier, withCheckDigit, weightedChecksum_of_le h, Except.map]

/-- No derivation raises an error of its own (R124). -/
theorem identifier_ne_raise (ref : Option Str) (companyPrefix : Str) (e : Error) :
    identifier ref companyPrefix ≠ .error (.raise e) := by
  cases ref with
  | none => simp [identifier]
  | some r =>
    rcases weightedChecksum_cases (r.take 1 ++ companyPrefix ++ r.drop 1) with ⟨v, _, _, _, h⟩ | ⟨_, h⟩ <;>
      simp only [identifier, withCheckDigit, h, Except.map] <;> exact fun hr => by cases hr

/-- R58: the width checks are `v < 2^w`. -/
theorem bitlen_le_iff (v w : Nat) : bitlen v ≤ w ↔ v < 2 ^ w := by
  unfold bitlen
  split
  · subst_vars; simp
  · rename_i h
    rw [Nat.succ_le_iff, Nat.log2_lt h]

theorem checkFilter_ok_iff (f : Nat) : checkFilter f = .ok () ↔ f ≤ 7 := by
  unfold checkFilter
  split <;> simp_all

theorem checkFilter_of_gt {f : Nat} (h : 7 < f) : checkFilter f = .error (.raise .filterOutOfRange) := by
  simp [checkFilter, h]

theorem checkFilter_of_le {f : Nat} (h : f ≤ 7) : checkFilter f = .ok () := (checkFilter_ok_iff f).2 h

theorem checkPartition_ok_iff (p : Nat) (e : PartitionEntry) :
    checkPartition p = .ok e ↔ partitionEntry p = some e := by
  unfold checkPartition
  split <;> simp_all

theorem checkPartition_of_none {p : Nat} (h : partitionEntry p = none) :
    checkPartition p = .error (.raise .invalidPartition) := by simp [checkPartition, h]

theorem partitionEntry_eq_none_iff (p : Nat) : partitionEntry p = none ↔ 6 < p := by
  simp [partitionEntry, partitionTable]; omega

theorem decimalOperand_of_digits {s : Str} (h : isDigitStr s = true) : decimalOperand s = .ok (parseDec s) := by
  simp [decimalOperand, h]

theorem decimalOperand_of_not {s : Str} (h : isDigitStr s = false) :
    decimalOperand s = .error (.refuse .operandNotNumeric) := by simp [decimalOperand, h]

theorem checkWidth_of_lt {v w : Nat} {e : Error} (h : v < 2 ^ w) : checkWidth v w e = .ok v := by
  have := (bitlen_le_iff v w).2 h
  simp [checkWidth, Nat.not_lt.2 this]

theorem checkWidth_of_ge {v w : Nat} {e : Error} (h : 2 ^ w ≤ v) : checkWidth v w e = .error (.raise e) := by
  have : w < bitlen v := by
    by_contra hn
    exact absurd ((bitlen_le_iff v w).1 (Nat.le_of_not_lt hn)) (Nat.not_lt.2 h)
  simp [checkWidth, this]

/-- Everything step 3 can do. -/
theorem checkCompanyPrefix_cases (e : PartitionEntry) (s : Str) :
    (isDigitStr s = false ∧ checkCompanyPrefix e s = .error (.refuse .operandNotNumeric)) ∨
    (isDigitStr s = true ∧ parseDec s < 2 ^ e.cpw ∧ checkCompanyPrefix e s = .ok (parseDec s)) ∨
    (isDigitStr s = true ∧ 2 ^ e.cpw ≤ parseDec s ∧ checkCompanyPrefix e s = .error (.raise .companyPrefixTooLong)) := by
  unfold checkCompanyPrefix
  cases h : isDigitStr s with
  | false => exact .inl ⟨rfl, by rw [decimalOperand_of_not h]; rfl⟩
  | true =>
    rw [decimalOperand_of_digits h]
    by_cases hw : parseDec s < 2 ^ e.cpw
    · exact .inr (.inl ⟨rfl, hw, checkWidth_of_lt hw⟩)
    · exact .inr (.inr ⟨rfl, Nat.le_of_not_lt hw, checkWidth_of_ge (Nat.le_of_not_lt hw)⟩)

/-- Everything step 4 can do. -/
theorem checkItemReference_cases (e : PartitionEntry) (s : Str) :
    (isDigitStr s = false ∧ checkItemReference e s = .error (.refuse .operandNotNumeric)) ∨
    (isDigitStr s = true ∧ parseDec s < 2 ^ e.irw ∧ checkItemReference e s = .ok (parseDec s)) ∨
    (isDigitStr s = true ∧ 2 ^ e.irw ≤ parseDec s ∧ checkItemReference e s = .error (.raise .itemReferenceTooLong)) := by
  unfold checkItemReference
  cases h : isDigitStr s with
  | false => exact .inl ⟨rfl, by rw [decimalOperand_of_not h]; rfl⟩
  | true =>
    rw [decimalOperand_of_digits h]
    by_cases hw : parseDec s < 2 ^ e.irw
    · exact .inr (.inl ⟨rfl, hw, checkWidth_of_lt hw⟩)
    · exact .inr (.inr ⟨rfl, Nat.le_of_not_lt hw, checkWidth_of_ge (Nat.le_of_not_lt hw)⟩)

/-- Everything step 5 for SGTIN-96 can do. -/
theorem checkSerial96_cases (s : Str) :
    (isDigitStr s = true ∧ parseDec s ≤ serialBound ∧ checkSerial96 s = .ok (parseDec s)) ∨
    (isDigitStr s = true ∧ serialBound < parseDec s ∧ checkSerial96 s = .error (.raise .serialOutOfRange)) ∨
    (isDigitStr s = false ∧ isSignedDigitStr s = true ∧ checkSerial96 s = .error (.refuse .signedSerial)) ∨
    (isDigitStr s = false ∧ isSignedDigitStr s = false ∧ checkSerial96 s = .error (.raise .serialNotNumeric)) := by
  unfold checkSerial96
  cases h : isDigitStr s with
  | true =>
    by_cases hb : parseDec s > serialBound
    · exact .inr (.inl ⟨rfl, hb, by simp [hb]⟩)
    · exact .inl ⟨rfl, Nat.le_of_not_lt hb, by simp [hb]⟩
  | false =>
    cases hs : isSignedDigitStr s with
    | true => exact .inr (.inr (.inl ⟨rfl, rfl, by simp⟩))
    | false => exact .inr (.inr (.inr ⟨rfl, rfl, by simp⟩))

/-- Everything step 5 for SGTIN-198 can do. -/
theorem serialField198_cases (s : Str) :
    (20 < s.length ∧ serialField198 s = .error (.raise .serialTooLong)) ∨
    (s.length ≤ 20 ∧ encode7bit s = none ∧ serialField198 s = .error (.refuse .charNot7Bit)) ∨
    (∃ b, s.length ≤ 20 ∧ encode7bit s = some b ∧ serialField198 s = .ok (padRight b 140)) := by
  unfold serialField198
  by_cases h : s.length > 20
  · exact .inl ⟨h, by simp [h]⟩
  · have h' := Nat.le_of_not_lt h
    cases hb : encode7bit s with
    | none => exact .inr (.inl ⟨h', rfl, by simp [h]⟩)
    | some b => exact .inr (.inr ⟨b, h', rfl, by simp [h]⟩)

/-- Everything the SSCC-96 serial-reference field can do: it has no error status. -/
theorem serialRefField_cases (p : Nat) (e : PartitionEntry) (ext s : Str) :
    (ext.length ≠ 1 ∧ serialRefField p e ext s = .error (.refuse .extensionNotOneChar)) ∨
    (ext.length = 1 ∧ isDigitStr (ext ++ padLeftDigits s (srpad p)) = false ∧
      serialRefField p e ext s = .error (.refuse .operandNotNumeric)) ∨
    (ext.length = 1 ∧ isDigitStr (ext ++ padLeftDigits s (srpad p)) = true ∧
      2 ^ e.srw ≤ parseDec (ext ++ padLeftDigits s (srpad p)) ∧
      serialRefField p e ext s = .error (.refuse .serialReferenceOverflow)) ∨
    (ext.length = 1 ∧ isDigitStr (ext ++ padLeftDigits s (srpad p)) = true ∧
      parseDec (ext ++ padLeftDigits s (srpad p)) < 2 ^ e.srw ∧
      serialRefField p e ext s = .ok (toBits (parseDec (ext ++ padLeftDigits s (srpad p))) e.srw)) := by
  unfold serialRefField
  by_cases he : ext.length = 1
  · cases hd : isDigitStr (ext ++ padLeftDigits s (srpad p)) with
    | false =>
      refine .inr (.inl ⟨he, rfl, ?_⟩)
      simp [he, decimalOperand_of_not hd, bind, Except.bind]
    | true =>
      by_cases hv : parseDec (ext ++ padLeftDigits s (srpad p)) < 2 ^ e.srw
      · refine .inr (.inr (.inr ⟨he, rfl, hv, ?_⟩))
        simp [he, decimalOperand_of_digits hd, bind, Except.bind, pure, Except.pure, Nat.not_le.2 hv]
      · refine .inr (.inr (.inl ⟨he, rfl, Nat.le_of_not_lt hv, ?_⟩))
        simp [he, decimalOperand_of_digits hd, bind, Except.bind, throw, throwThe,
          MonadExceptOf.throw, Nat.le_of_not_lt hv]
  · refine .inl ⟨he, ?_⟩
    simp [he, bind, Except.bind, throw, throwThe, MonadExceptOf.throw]

end Sys2Proof.Machine
end

