-- ==== Sys2Proof/Laws/Decoder.lean ====
section
/-! SUPPORT. What the decoder's shared steps can do, and what a decode that gives a field map has read. -/

namespace Sys2Proof.Machine

open Sys2Proof

/-- Everything a read can do. -/
theorem readNumber_cases (b : BitSeq) (off w : Nat) :
    (b.length < off + w ∧ readNumber b off w = .error (.refuse .imageTooShort)) ∨
    (off + w ≤ b.length ∧ readNumber b off w = .ok (bitsToUnsigned (takeBits b off w))) := by
  by_cases h : b.length < off + w
  · exact .inl ⟨h, by simp [readNumber, h]⟩
  · exact .inr ⟨Nat.le_of_not_lt h, by simp [readNumber, h]⟩

theorem readNumber_of_le {b : BitSeq} {off w : Nat} (h : off + w ≤ b.length) :
    readNumber b off w = .ok (bitsToUnsigned (takeBits b off w)) := by
  simp [readNumber, Nat.not_lt.2 h]

theorem readNumber_of_lt {b : BitSeq} {off w : Nat} (h : b.length < off + w) :
    readNumber b off w = .error (.refuse .imageTooShort) := by simp [readNumber, h]

/-- Everything header resolution can do. -/
theorem resolveHeader_cases (hdr : Nat) :
    (headerTable hdr = none ∧ resolveHeader hdr = .error (.raise .unsupportedHeader)) ∨
    (∃ v, headerTable hdr = some v ∧ resolveHeader hdr = .ok v) := by
  unfold resolveHeader
  cases h : headerTable hdr with
  | none => exact .inl ⟨rfl, rfl⟩
  | some v => exact .inr ⟨v, rfl, rfl⟩

/-- Everything partition resolution can do. -/
theorem resolvePartition_cases (p : Nat) :
    (partitionEntry p = none ∧ resolvePartition p = .error (.raise .invalidPartition)) ∨
    (∃ e, partitionEntry p = some e ∧ resolvePartition p = .ok e) := by
  unfold resolvePartition
  cases h : partitionEntry p with
  | none => exact .inl ⟨rfl, rfl⟩
  | some e => exact .inr ⟨e, rfl, rfl⟩

/-- Everything the item-reference step can do. -/
theorem readItemReference_cases (v : EncodingVariant) (b : BitSeq) (off w : Nat) :
    (v = .sscc96 ∧ readItemReference v b off w = .ok 0) ∨
    (v ≠ .sscc96 ∧ b.length < off + w ∧ readItemReference v b off w = .error (.refuse .imageTooShort)) ∨
    (v ≠ .sscc96 ∧ off + w ≤ b.length ∧
      readItemReference v b off w = .ok (bitsToUnsigned (takeBits b off w))) := by
  unfold readItemReference
  by_cases hv : v = .sscc96
  · exact .inl ⟨hv, by simp [hv]⟩
  · simp only [if_neg hv]
    rcases readNumber_cases b off w with ⟨hl, h⟩ | ⟨hl, h⟩
    · exact .inr (.inl ⟨hv, hl, h⟩)
    · exact .inr (.inr ⟨hv, hl, h⟩)

/-- A partition entry is one of the seven rows. -/
theorem partitionEntry_rows {p : Nat} {e : PartitionEntry} (h : partitionEntry p = some e) :
    (p = 0 ∧ e = ⟨40, 42, 18⟩) ∨ (p = 1 ∧ e = ⟨37, 45, 21⟩) ∨ (p = 2 ∧ e = ⟨34, 48, 24⟩) ∨
    (p = 3 ∧ e = ⟨30, 52, 28⟩) ∨ (p = 4 ∧ e = ⟨27, 55, 31⟩) ∨ (p = 5 ∧ e = ⟨24, 58, 34⟩) ∨
    (p = 6 ∧ e = ⟨20, 62, 38⟩) := by
  have hp : p ≤ 6 := by
    by_contra hn
    rw [(partitionEntry_eq_none_iff p).2 (Nat.lt_of_not_le hn)] at h
    cases h
  interval_cases p <;> simp [partitionEntry, partitionTable] at h <;> simp [← h]

/-- What a decode that gives a field map has read, and that the image was long enough for it. -/
theorem decodeTag_ok {image : Str} {t : DecodedTag} (h : decodeTag image = .ok t) :
    ∃ b v e, hexToBits image = some b ∧ 14 + e.cpw ≤ b.length ∧
      headerTable (bitsToUnsigned (takeBits b 0 8)) = some v ∧
      partitionEntry (bitsToUnsigned (takeBits b 11 3)) = some e ∧
      ∃ ir, readItemReference v b (14 + e.cpw) e.irw = .ok ir ∧
        decodeRest v b e (bitsToUnsigned (takeBits b 8 3)) (bitsToUnsigned (takeBits b 11 3))
          (bitsToUnsigned (takeBits b 14 e.cpw)) ir (14 + e.cpw) = .ok t := by
  unfold decodeTag at h
  cases hb : hexToBits image with
  | none => simp [hb] at h
  | some b =>
    simp only [hb] at h
    rcases readNumber_cases b 0 8 with ⟨_, h1⟩ | ⟨_, h1⟩ <;> simp only [h1, bind, Except.bind] at h
    · cases h
    rcases resolveHeader_cases (bitsToUnsigned (takeBits b 0 8)) with ⟨_, h2⟩ | ⟨v, hv, h2⟩ <;> simp only [h2] at h
    · cases h
    rcases readNumber_cases b 8 3 with ⟨_, h3⟩ | ⟨_, h3⟩ <;> simp only [h3] at h
    · cases h
    rcases readNumber_cases b 11 3 with ⟨_, h4⟩ | ⟨_, h4⟩ <;> simp only [h4] at h
    · cases h
    rcases resolvePartition_cases (bitsToUnsigned (takeBits b 11 3)) with ⟨_, h5⟩ | ⟨e, he, h5⟩ <;> simp only [h5] at h
    · cases h
    rcases readNumber_cases b 14 e.cpw with ⟨_, h6⟩ | ⟨hl, h6⟩ <;> simp only [h6] at h
    · cases h
    cases hi : readItemReference v b (14 + e.cpw) e.irw with
    | error x => simp [hi] at h
    | ok ir =>
      simp only [hi] at h
      exact ⟨b, v, e, rfl, hl, hv, he, ir, hi, h⟩

end Sys2Proof.Machine
end

