-- ==== Sys2Proof/Laws/Encoder.lean ====
section
/-! SUPPORT. What an encoder that gives an image has checked, and the image it gives. -/

namespace Sys2Proof.Machine

open Sys2Proof

/-- An image of ENC.SGTIN96 comes of operands that passed every check, with a serial below 2^38. -/
theorem encodeSgtin96_ok {f p : Nat} {cp ir ser img : Str} (h : encodeSgtin96 f p cp ir ser = .ok img) :
    ∃ e, f ≤ 7 ∧ partitionEntry p = some e ∧ isDigitStr cp = true ∧ parseDec cp < 2 ^ e.cpw ∧
      isDigitStr ir = true ∧ parseDec ir < 2 ^ e.irw ∧ isDigitStr ser = true ∧ parseDec ser < serialBound ∧
      img = bitsToHex (imageHead 48 f p ++ toBits (parseDec cp) e.cpw ++ toBits (parseDec ir) e.irw ++
        toBits (parseDec ser) 38) := by
  unfold encodeSgtin96 at h
  by_cases hf : f ≤ 7
  swap
  · simp [checkFilter_of_gt (Nat.lt_of_not_le hf), bind, Except.bind] at h
  simp only [checkFilter_of_le hf, bind, Except.bind] at h
  cases he : partitionEntry p with
  | none => simp [checkPartition_of_none he] at h
  | some e =>
    simp only [(checkPartition_ok_iff p e).2 he] at h
    rcases checkCompanyPrefix_cases e cp with ⟨_, h1⟩ | ⟨d1, w1, h1⟩ | ⟨_, _, h1⟩ <;> simp only [h1] at h
    · cases h
    · rcases checkItemReference_cases e ir with ⟨_, h2⟩ | ⟨d2, w2, h2⟩ | ⟨_, _, h2⟩ <;> simp only [h2] at h
      · cases h
      · rcases checkSerial96_cases ser with ⟨d3, w3, h3⟩ | ⟨_, _, h3⟩ | ⟨_, _, h3⟩ | ⟨_, _, h3⟩ <;> simp only [h3] at h
        · by_cases hs : parseDec ser = serialBound
          · simp [hs, throw, throwThe, MonadExceptOf.throw] at h
          · simp only [if_neg hs, pure, Except.pure, Except.ok.injEq] at h
            exact ⟨e, hf, rfl, d1, w1, d2, w2, d3, Nat.lt_of_le_of_ne w3 hs, h.symm⟩
        all_goals cases h
      · cases h
    · cases h

/-- An image of ENC.SGTIN198 comes of operands that passed every check. -/
theorem encodeSgtin198_ok {f p : Nat} {cp ir ser img : Str} (h : encodeSgtin198 f p cp ir ser = .ok img) :
    ∃ e sb, f ≤ 7 ∧ partitionEntry p = some e ∧ isDigitStr cp = true ∧ parseDec cp < 2 ^ e.cpw ∧
      isDigitStr ir = true ∧ parseDec ir < 2 ^ e.irw ∧ ser.length ≤ 20 ∧ encode7bit ser = some sb ∧
      img = bitsToHex (imageHead 54 f p ++ toBits (parseDec cp) e.cpw ++ toBits (parseDec ir) e.irw ++
        padRight sb 140) := by
  unfold encodeSgtin198 at h
  by_cases hf : f ≤ 7
  swap
  · simp [checkFilter_of_gt (Nat.lt_of_not_le hf), bind, Except.bind] at h
  simp only [checkFilter_of_le hf, bind, Except.bind] at h
  cases he : partitionEntry p with
  | none => simp [checkPartition_of_none he] at h
  | some e =>
    simp only [(checkPartition_ok_iff p e).2 he] at h
    rcases checkCompanyPrefix_cases e cp with ⟨_, h1⟩ | ⟨d1, w1, h1⟩ | ⟨_, _, h1⟩ <;> simp only [h1] at h
    · cases h
    · rcases checkItemReference_cases e ir with ⟨_, h2⟩ | ⟨d2, w2, h2⟩ | ⟨_, _, h2⟩ <;> simp only [h2] at h
      · cases h
      · rcases serialField198_cases ser with ⟨_, h3⟩ | ⟨_, _, h3⟩ | ⟨sb, hl, hb, h3⟩ <;> simp only [h3] at h
        · cases h
        · cases h
        · simp only [pure, Except.pure, Except.ok.injEq] at h
          exact ⟨e, sb, hf, rfl, d1, w1, d2, w2, hl, hb, h.symm⟩
      · cases h
    · cases h

/-- An image of ENC.SSCC96 comes of operands that passed every check and a number that fits its field. -/
theorem encodeSscc96_ok {f p : Nat} {cp ext ser img : Str} (h : encodeSscc96 f p cp ext ser = .ok img) :
    ∃ e, f ≤ 7 ∧ partitionEntry p = some e ∧ isDigitStr cp = true ∧ parseDec cp < 2 ^ e.cpw ∧ ext.length = 1 ∧
      isDigitStr (ext ++ padLeftDigits ser (srpad p)) = true ∧
      parseDec (ext ++ padLeftDigits ser (srpad p)) < 2 ^ e.srw ∧
      img = bitsToHex (imageHead 49 f p ++ toBits (parseDec cp) e.cpw ++
        toBits (parseDec (ext ++ padLeftDigits ser (srpad p))) e.srw ++ zeros 24) := by
  unfold encodeSscc96 at h
  by_cases hf : f ≤ 7
  swap
  · simp [checkFilter_of_gt (Nat.lt_of_not_le hf), bind, Except.bind] at h
  simp only [checkFilter_of_le hf, bind, Except.bind] at h
  cases he : partitionEntry p with
  | none => simp [checkPartition_of_none he] at h
  | some e =>
    simp only [(checkPartition_ok_iff p e).2 he] at h
    rcases checkCompanyPrefix_cases e cp with ⟨_, h1⟩ | ⟨d1, w1, h1⟩ | ⟨_, _, h1⟩ <;> simp only [h1] at h
    · cases h
    · rcases serialRefField_cases p e ext ser with ⟨_, h2⟩ | ⟨_, _, h2⟩ | ⟨_, _, _, h2⟩ | ⟨l, d2, w2, h2⟩ <;>
        simp only [h2] at h
      · cases h
      · cases h
      · cases h
      · simp only [pure, Except.pure, Except.ok.injEq] at h
        exact ⟨e, hf, rfl, d1, w1, l, d2, w2, h.symm⟩
    · cases h

end Sys2Proof.Machine
end

