-- ==== Sys2Proof/Laws/PerInstr.lean ====
section
/-! SUPPORT. The family FixedBits, one lemma per constructor: the word an instruction encodes to carries the fixed bits that
spec/opcode_table.json gives its row (the select code of an operation, the header byte of an image). -/

namespace Sys2Proof.Laws

open Sys2Proof

/-- The table's match value of a row: the select code of format CMD. -/
def rowSelect : Instr → Option (BitVec 4)
  | .encSgtin96 _ _ _ _ _ => some 1#4
  | .encSgtin198 _ _ _ _ _ => some 2#4
  | .encSscc96 _ _ _ _ _ => some 3#4
  | .reserSgtin96 _ _ => some 4#4
  | .dec _ => some 5#4
  | .decGtin _ => some 6#4
  | .decSscc _ => some 7#4
  | .decSerial _ => some 8#4
  | .chkDigit _ => some 9#4
  | .chkValid _ => some 10#4
  | .sgtin96P0 _ _ _ _ => none
  | .sgtin96P1 _ _ _ _ => none
  | .sgtin96P2 _ _ _ _ => none
  | .sgtin96P3 _ _ _ _ => none
  | .sgtin96P4 _ _ _ _ => none
  | .sgtin96P5 _ _ _ _ => none
  | .sgtin96P6 _ _ _ _ => none
  | .sgtin198P0 _ _ _ _ => none
  | .sgtin198P1 _ _ _ _ => none
  | .sgtin198P2 _ _ _ _ => none
  | .sgtin198P3 _ _ _ _ => none
  | .sgtin198P4 _ _ _ _ => none
  | .sgtin198P5 _ _ _ _ => none
  | .sgtin198P6 _ _ _ _ => none
  | .sscc96P0 _ _ _ _ => none
  | .sscc96P1 _ _ _ _ => none
  | .sscc96P2 _ _ _ _ => none
  | .sscc96P3 _ _ _ _ => none
  | .sscc96P4 _ _ _ _ => none
  | .sscc96P5 _ _ _ _ => none
  | .sscc96P6 _ _ _ _ => none
  | .reservedDod64 _ _ _ => none
  | .reservedDod96 _ _ _ => none
  | .reservedGln96 _ _ _ => none
  | .reservedGrai96 _ _ _ => none
  | .reservedGiai96 _ _ _ => none
  | .reservedGid96 _ _ _ => none
  | .unsupported _ _ => none
  | .partition7 _ _ _ => none

/-- The table's match value of a row: the two hexadecimal characters of the header byte of an image format. -/
def rowHeader : Instr → Str
  | .encSgtin96 _ _ _ _ _ => []
  | .encSgtin198 _ _ _ _ _ => []
  | .encSscc96 _ _ _ _ _ => []
  | .reserSgtin96 _ _ => []
  | .dec _ => []
  | .decGtin _ => []
  | .decSscc _ => []
  | .decSerial _ => []
  | .chkDigit _ => []
  | .chkValid _ => []
  | .sgtin96P0 _ _ _ _ => str "30"
  | .sgtin96P1 _ _ _ _ => str "30"
  | .sgtin96P2 _ _ _ _ => str "30"
  | .sgtin96P3 _ _ _ _ => str "30"
  | .sgtin96P4 _ _ _ _ => str "30"
  | .sgtin96P5 _ _ _ _ => str "30"
  | .sgtin96P6 _ _ _ _ => str "30"
  | .sgtin198P0 _ _ _ _ => str "36"
  | .sgtin198P1 _ _ _ _ => str "36"
  | .sgtin198P2 _ _ _ _ => str "36"
  | .sgtin198P3 _ _ _ _ => str "36"
  | .sgtin198P4 _ _ _ _ => str "36"
  | .sgtin198P5 _ _ _ _ => str "36"
  | .sgtin198P6 _ _ _ _ => str "36"
  | .sscc96P0 _ _ _ _ => str "31"
  | .sscc96P1 _ _ _ _ => str "31"
  | .sscc96P2 _ _ _ _ => str "31"
  | .sscc96P3 _ _ _ _ => str "31"
  | .sscc96P4 _ _ _ _ => str "31"
  | .sscc96P5 _ _ _ _ => str "31"
  | .sscc96P6 _ _ _ _ => str "31"
  | .reservedDod64 _ _ _ => str "CE"
  | .reservedDod96 _ _ _ => str "CF"
  | .reservedGln96 _ _ _ => str "32"
  | .reservedGrai96 _ _ _ => str "33"
  | .reservedGiai96 _ _ _ => str "34"
  | .reservedGid96 _ _ _ => str "35"
  | .unsupported header _ => byteHex header.toNat
  | .partition7 header _ _ => byteHex header.toNat

/-- The encoded word of `i` carries its row's fixed bits. -/
def FixedBits.Statement (i : Instr) : Prop :=
  match encode i with
  | .command r => rowSelect i = some r.op
  | .image h => rowSelect i = none ∧ h.take 2 = rowHeader i

/-- A header byte in front of an image is its two hexadecimal characters. -/
theorem bitsToHex_header (header : BitVec 8) (rest : BitSeq) :
    (bitsToHex (toBits header.toNat 8 ++ rest)).take 2 = byteHex header.toNat := by
  have split : ∀ h : BitVec 8, ∃ a b : BitSeq, toBits h.toNat 8 = a ++ b ∧ a.length = 4 ∧ b.length = 4 ∧
      [hexChar (bitsToUnsigned a), hexChar (bitsToUnsigned b)] = byteHex h.toNat := by
    intro h
    refine ⟨(toBits h.toNat 8).take 4, (toBits h.toNat 8).drop 4, (List.take_append_drop _ _).symm, ?_⟩
    revert h
    decide +kernel
  obtain ⟨a, b, hab, ha, hb, hv⟩ := split header
  rw [hab, List.append_assoc, bitsToHex_append _ _ ha, bitsToHex_append _ _ hb]
  simpa using hv

theorem FixedBits.encSgtin96 (f p : Nat) (cp x ser : Str) :
    FixedBits.Statement (.encSgtin96 f p cp x ser) := rfl
theorem FixedBits.encSgtin198 (f p : Nat) (cp x ser : Str) :
    FixedBits.Statement (.encSgtin198 f p cp x ser) := rfl
theorem FixedBits.encSscc96 (f p : Nat) (cp x ser : Str) :
    FixedBits.Statement (.encSscc96 f p cp x ser) := rfl
theorem FixedBits.reserSgtin96 (image ser : Str) :
    FixedBits.Statement (.reserSgtin96 image ser) := rfl
theorem FixedBits.dec (image : Str) : FixedBits.Statement (.dec image) := rfl
theorem FixedBits.decGtin (image : Str) : FixedBits.Statement (.decGtin image) := rfl
theorem FixedBits.decSscc (image : Str) : FixedBits.Statement (.decSscc image) := rfl
theorem FixedBits.decSerial (image : Str) : FixedBits.Statement (.decSerial image) := rfl
theorem FixedBits.chkDigit (digits : Str) : FixedBits.Statement (.chkDigit digits) := rfl
theorem FixedBits.chkValid (digits : Str) : FixedBits.Statement (.chkValid digits) := rfl

theorem FixedBits.sgtin96P0 (f : BitVec 3) (cp : BitVec 40) (ir : BitVec 4) (ser : BitVec 38) :
    FixedBits.Statement (.sgtin96P0 f cp ir ser) := ⟨rfl, bitsToHex_header 48#8 _⟩
theorem FixedBits.sgtin96P1 (f : BitVec 3) (cp : BitVec 37) (ir : BitVec 7) (ser : BitVec 38) :
    FixedBits.Statement (.sgtin96P1 f cp ir ser) := ⟨rfl, bitsToHex_header 48#8 _⟩
theorem FixedBits.sgtin96P2 (f : BitVec 3) (cp : BitVec 34) (ir : BitVec 10) (ser : BitVec 38) :
    FixedBits.Statement (.sgtin96P2 f cp ir ser) := ⟨rfl, bitsToHex_header 48#8 _⟩
theorem FixedBits.sgtin96P3 (f : BitVec 3) (cp : BitVec 30) (ir : BitVec 14) (ser : BitVec 38) :
    FixedBits.Statement (.sgtin96P3 f cp ir ser) := ⟨rfl, bitsToHex_header 48#8 _⟩
theorem FixedBits.sgtin96P4 (f : BitVec 3) (cp : BitVec 27) (ir : BitVec 17) (ser : BitVec 38) :
    FixedBits.Statement (.sgtin96P4 f cp ir ser) := ⟨rfl, bitsToHex_header 48#8 _⟩
theorem FixedBits.sgtin96P5 (f : BitVec 3) (cp : BitVec 24) (ir : BitVec 20) (ser : BitVec 38) :
    FixedBits.Statement (.sgtin96P5 f cp ir ser) := ⟨rfl, bitsToHex_header 48#8 _⟩
theorem FixedBits.sgtin96P6 (f : BitVec 3) (cp : BitVec 20) (ir : BitVec 24) (ser : BitVec 38) :
    FixedBits.Statement (.sgtin96P6 f cp ir ser) := ⟨rfl, bitsToHex_header 48#8 _⟩
theorem FixedBits.sgtin198P0 (f : BitVec 3) (cp : BitVec 40) (ir : BitVec 4) (ser : BitSeq) :
    FixedBits.Statement (.sgtin198P0 f cp ir ser) := ⟨rfl, bitsToHex_header 54#8 _⟩
theorem FixedBits.sgtin198P1 (f : BitVec 3) (cp : BitVec 37) (ir : BitVec 7) (ser : BitSeq) :
    FixedBits.Statement (.sgtin198P1 f cp ir ser) := ⟨rfl, bitsToHex_header 54#8 _⟩
theorem FixedBits.sgtin198P2 (f : BitVec 3) (cp : BitVec 34) (ir : BitVec 10) (ser : BitSeq) :
    FixedBits.Statement (.sgtin198P2 f cp ir ser) := ⟨rfl, bitsToHex_header 54#8 _⟩
theorem FixedBits.sgtin198P3 (f : BitVec 3) (cp : BitVec 30) (ir : BitVec 14) (ser : BitSeq) :
    FixedBits.Statement (.sgtin198P3 f cp ir ser) := ⟨rfl, bitsToHex_header 54#8 _⟩
theorem FixedBits.sgtin198P4 (f : BitVec 3) (cp : BitVec 27) (ir : BitVec 17) (ser : BitSeq) :
    FixedBits.Statement (.sgtin198P4 f cp ir ser) := ⟨rfl, bitsToHex_header 54#8 _⟩
theorem FixedBits.sgtin198P5 (f : BitVec 3) (cp : BitVec 24) (ir : BitVec 20) (ser : BitSeq) :
    FixedBits.Statement (.sgtin198P5 f cp ir ser) := ⟨rfl, bitsToHex_header 54#8 _⟩
theorem FixedBits.sgtin198P6 (f : BitVec 3) (cp : BitVec 20) (ir : BitVec 24) (ser : BitSeq) :
    FixedBits.Statement (.sgtin198P6 f cp ir ser) := ⟨rfl, bitsToHex_header 54#8 _⟩
theorem FixedBits.sscc96P0 (f : BitVec 3) (cp : BitVec 40) (sr : BitVec 18) (un : BitSeq) :
    FixedBits.Statement (.sscc96P0 f cp sr un) := ⟨rfl, bitsToHex_header 49#8 _⟩
theorem FixedBits.sscc96P1 (f : BitVec 3) (cp : BitVec 37) (sr : BitVec 21) (un : BitSeq) :
    FixedBits.Statement (.sscc96P1 f cp sr un) := ⟨rfl, bitsToHex_header 49#8 _⟩
theorem FixedBits.sscc96P2 (f : BitVec 3) (cp : BitVec 34) (sr : BitVec 24) (un : BitSeq) :
    FixedBits.Statement (.sscc96P2 f cp sr un) := ⟨rfl, bitsToHex_header 49#8 _⟩
theorem FixedBits.sscc96P3 (f : BitVec 3) (cp : BitVec 30) (sr : BitVec 28) (un : BitSeq) :
    FixedBits.Statement (.sscc96P3 f cp sr un) := ⟨rfl, bitsToHex_header 49#8 _⟩
theorem FixedBits.sscc96P4 (f : BitVec 3) (cp : BitVec 27) (sr : BitVec 31) (un : BitSeq) :
    FixedBits.Statement (.sscc96P4 f cp sr un) := ⟨rfl, bitsToHex_header 49#8 _⟩
theorem FixedBits.sscc96P5 (f : BitVec 3) (cp : BitVec 24) (sr : BitVec 34) (un : BitSeq) :
    FixedBits.Statement (.sscc96P5 f cp sr un) := ⟨rfl, bitsToHex_header 49#8 _⟩
theorem FixedBits.sscc96P6 (f : BitVec 3) (cp : BitVec 20) (sr : BitVec 38) (un : BitSeq) :
    FixedBits.Statement (.sscc96P6 f cp sr un) := ⟨rfl, bitsToHex_header 49#8 _⟩
theorem FixedBits.reservedDod64 (f p : BitVec 3) (rest : BitSeq) :
    FixedBits.Statement (.reservedDod64 f p rest) := ⟨rfl, bitsToHex_header 206#8 _⟩
theorem FixedBits.reservedDod96 (f p : BitVec 3) (rest : BitSeq) :
    FixedBits.Statement (.reservedDod96 f p rest) := ⟨rfl, bitsToHex_header 207#8 _⟩
theorem FixedBits.reservedGln96 (f p : BitVec 3) (rest : BitSeq) :
    FixedBits.Statement (.reservedGln96 f p rest) := ⟨rfl, bitsToHex_header 50#8 _⟩
theorem FixedBits.reservedGrai96 (f p : BitVec 3) (rest : BitSeq) :
    FixedBits.Statement (.reservedGrai96 f p rest) := ⟨rfl, bitsToHex_header 51#8 _⟩
theorem FixedBits.reservedGiai96 (f p : BitVec 3) (rest : BitSeq) :
    FixedBits.Statement (.reservedGiai96 f p rest) := ⟨rfl, bitsToHex_header 52#8 _⟩
theorem FixedBits.reservedGid96 (f p : BitVec 3) (rest : BitSeq) :
    FixedBits.Statement (.reservedGid96 f p rest) := ⟨rfl, bitsToHex_header 53#8 _⟩
theorem FixedBits.unsupported (header : BitVec 8) (rest : BitSeq) :
    FixedBits.Statement (.unsupported header rest) := ⟨rfl, bitsToHex_header header _⟩
theorem FixedBits.partition7 (header : BitVec 8) (f : BitVec 3) (rest : BitSeq) :
    FixedBits.Statement (.partition7 header f rest) := ⟨rfl, bitsToHex_header header _⟩

end Sys2Proof.Laws
end

