-- ==== Sys2Proof/Tests/Slice0.lean ====
section
/-! SUPPORT. The model's own tests: each row's word written out from spec/opcode_table.json decodes to its instruction; the
well-formedness checks refuse; vectors of spec/95_test_vectors.md (named in each test's comment); and for every
statement with hypotheses a state and operands that meet them. -/

set_option Elab.async false

namespace Sys2Proof.Tests

open Sys2Proof Sys2Proof.Machine

/-- A bit string as the spec writes one, first bit first. -/
def bits (s : String) : BitSeq := s.toList.map fun c => c == '1'

/-- An idle state with `ws` presented. -/
def presenting (ws : List Presented) : State := { State.reset with requests := ws }

/-! ### Decoding: the ten select codes of rule R39, operands as the request names them -/

theorem test_decode_encSgtin96 : decode (.command { op := 0b0001#4, filter := 3, partition := 5, companyPrefix := str "0037000", itemReference := str "65735", serial := str "999" }) =
    .ok (.encSgtin96 3 5 (str "0037000") (str "65735") (str "999")) := by decide
theorem test_decode_encSgtin198 : decode (.command { op := 0b0010#4, filter := 1, partition := 6, companyPrefix := str "030430", itemReference := str "0058045", serial := str "1a" }) =
    .ok (.encSgtin198 1 6 (str "030430") (str "0058045") (str "1a")) := by decide
theorem test_decode_encSscc96 : decode (.command { op := 0b0011#4, filter := 2, partition := 5, companyPrefix := str "4032046", extension := str "3", serial := str "0" }) =
    .ok (.encSscc96 2 5 (str "4032046") (str "3") (str "0")) := by decide
theorem test_decode_reserSgtin96 : decode (.command { op := 0b0100#4, image := str "30", serial := str "1000" }) =
    .ok (.reserSgtin96 (str "30") (str "1000")) := by decide
theorem test_decode_dec : decode (.command { op := 0b0101#4, image := str "3074" }) =
    .ok (.dec (str "3074")) := by decide
theorem test_decode_decGtin : decode (.command { op := 0b0110#4, image := str "3074" }) =
    .ok (.decGtin (str "3074")) := by decide
theorem test_decode_decSscc : decode (.command { op := 0b0111#4, image := str "3154" }) =
    .ok (.decSscc (str "3154")) := by decide
theorem test_decode_decSerial : decode (.command { op := 0b1000#4, image := str "3638" }) =
    .ok (.decSerial (str "3638")) := by decide
theorem test_decode_chkDigit : decode (.command { op := 0b1001#4, digits := str "0061414145324" }) =
    .ok (.chkDigit (str "0061414145324")) := by decide
theorem test_decode_chkValid : decode (.command { op := 0b1010#4, digits := str "00614141453245" }) =
    .ok (.chkValid (str "00614141453245")) := by decide

/-! ### Decoding: the image rows, each written from its pattern in spec/opcode_table.json (bit 0 first) with field values of our own, as
the hexadecimal string the host presents -/

theorem test_decode_sgtin96P0 : decode (.image (str "30A29BCA9D3797E3A6A3A451")) =
    .ok (.sgtin96P0 5#3 717035621861#40 15#4 153119597649#38) := by decide +kernel
theorem test_decode_sgtin96P1 : decode (.image (str "302763031D0231E236F675CD")) =
    .ok (.sgtin96P1 1#3 116368402449#37 71#7 146951009741#38) := by decide +kernel
theorem test_decode_sgtin96P2 : decode (.image (str "302B6F03675B91E53D9C1725")) =
    .ok (.sgtin96P2 1#3 14747395931#34 583#10 159947429669#38) := by decide +kernel
theorem test_decode_sgtin96P3 : decode (.image (str "30CE3C8776D9FB6EF28C105D")) =
    .ok (.sgtin96P3 6#3 600340333#30 10221#14 201637761117#38) := by decide +kernel
theorem test_decode_sgtin96P4 : decode (.image (str "3013963368C658EEF9EBDACD")) =
    .ok (.sgtin96P4 0#3 120350417#27 72035#17 201761479373#38) := by decide +kernel
theorem test_decode_sgtin96P5 : decode (.image (str "3016885EFF288F696B4CB243")) =
    .ok (.sgtin96P5 0#3 10622911#24 827965#20 177893847619#38) := by decide +kernel
theorem test_decode_sgtin96P6 : decode (.image (str "303B3BE2EB910577301850C5")) =
    .ok (.sgtin96P6 1#3 847755#20 11420693#24 237030101189#38) := by decide +kernel
theorem test_decode_sgtin198P0 : decode (.image (str "3623FCD2E6D77FCA78F9F46FEF1E8BA882CBC53250B814C662")) =
    .ok (.sgtin198P0 1#3 1096101246431#40 15#4 (bits "0010100111100011111001111101000110111111101111000111101000101110101000100000101100101111000101001100100101000010111000000101001100011001100010")) := by decide +kernel
theorem test_decode_sgtin198P1 : decode (.image (str "3687F0CE68E43AD51DAC2863A20C381EF078E63C404AF52B32")) =
    .ok (.sgtin198P1 4#3 135399687969#37 107#7 (bits "0101010001110110101100001010000110001110100010000011000011100000011110111100000111100011100110001111000100000001001010111101010010101100110010")) := by decide +kernel
theorem test_decode_sgtin198P2 : decode (.image (str "36AB7D2CAF838A682B45FE6B2B807D415F28084D7A4AC74FC2")) =
    .ok (.sgtin198P2 5#3 14984982403#34 553#10 (bits "1010000010101101000101111111100110101100101011100000000111110101000001010111110010100000001000010011010111101001001010110001110100111111000010")) := by decide +kernel
theorem test_decode_sgtin198P3 : decode (.image (str "36AF669529FFF27162DDD3AD49236D02BDC8560DC349A6A691")) =
    .ok (.sgtin198P3 5#3 912872095#30 16329#14 (bits "1100010110001011011101110100111010110101001001001000110110110100000010101111011100100001010110000011011100001101001001101001101010011010010001")) := by decide +kernel
theorem test_decode_sgtin198P4 : decode (.image (str "36B2171ABCFB18FF3077E7F5E27194E4E0AC14DF996BFEC8A1")) =
    .ok (.sgtin198P4 5#3 70137209#27 126051#17 (bits "1111110011000001110111111001111111010111100010011100011001010011100100111000001010110000010100110111111001100101101011111111101100100010100001")) := by decide +kernel
theorem test_decode_sgtin198P5 : decode (.image (str "3616DF71DF2654F20997727D40FD8EBE0EF41587988471C333")) =
    .ok (.sgtin198P5 0#3 12049527#24 825683#20 (bits "1100100000100110010111011100100111110101000000111111011000111010111110000011101111010000010101100001111001100010000100011100011100001100110011")) := by decide +kernel
theorem test_decode_sgtin198P6 : decode (.image (str "36FA5283EAA5BEEDEFF2246D29A9437D36D359A8E91D1A6931")) =
    .ok (.sgtin198P6 7#3 608783#20 11179771#24 (bits "1011011110111111110010001001000110110100101001101010010100001101111101001101101101001101011001101010001110100100011101000110100110100100110001")) := by decide +kernel
theorem test_decode_sscc96P0 : decode (.image (str "31C2EFD4B77D769A8B2A7CF8")) =
    .ok (.sscc96P0 6#3 807272308573#40 170635#18 (bits "001010100111110011111000")) := by decide +kernel
theorem test_decode_sscc96P1 : decode (.image (str "3146E4D76FB7B7777D062D21")) =
    .ok (.sscc96P1 2#3 99434069437#37 1537917#21 (bits "000001100010110100100001")) := by decide +kernel
theorem test_decode_sscc96P2 : decode (.image (str "31EB2EAE05CFC82C9D02188E")) =
    .ok (.sscc96P2 7#3 13668058575#34 13118621#24 (bits "000000100001100010001110")) := by decide +kernel
theorem test_decode_sscc96P3 : decode (.image (str "314FAD004FBDE8766FA32111")) =
    .ok (.sscc96P3 2#3 986711291#30 233338479#28 (bits "101000110010000100010001")) := by decide +kernel
theorem test_decode_sscc96P4 : decode (.image (str "31523749E9FA734D2FC8E5E3")) =
    .ok (.sscc96P4 2#3 74355667#27 2054376751#31 (bits "110010001110010111100011")) := by decide +kernel
theorem test_decode_sscc96P5 : decode (.image (str "31D7988DEE64E50CADF68A28")) =
    .ok (.sscc96P5 6#3 15082363#24 10282667181#34 (bits "111101101000101000101000")) := by decide +kernel
theorem test_decode_sscc96P6 : decode (.image (str "31DA3FBDE430CBC97D6AE302")) =
    .ok (.sscc96P6 6#3 589559#20 155437484413#38 (bits "011010101110001100000010")) := by decide +kernel
theorem test_decode_reservedDod64 : decode (.image (str "CEE6B86E1C2442F9")) =
    .ok (.reservedDod64 7#3 1#3 (bits "10101110000110111000011100001001000100001011111001")) := by decide +kernel
theorem test_decode_reservedDod96 : decode (.image (str "CF009001068739FA")) =
    .ok (.reservedDod96 0#3 0#3 (bits "00100100000000000100000110100001110011100111111010")) := by decide +kernel
theorem test_decode_reservedGln96 : decode (.image (str "3271303B6050914A")) =
    .ok (.reservedGln96 3#3 4#3 (bits "01001100000011101101100000010100001001000101001010")) := by decide +kernel
theorem test_decode_reservedGrai96 : decode (.image (str "338AE9CE9A2EF80F")) =
    .ok (.reservedGrai96 4#3 2#3 (bits "10111010011100111010011010001011101111100000001111")) := by decide +kernel
theorem test_decode_reservedGiai96 : decode (.image (str "34E3BA58FA529BA3")) =
    .ok (.reservedGiai96 7#3 0#3 (bits "11101110100101100011111010010100101001101110100011")) := by decide +kernel
theorem test_decode_reservedGid96 : decode (.image (str "35ECAFE44FD58DBE")) =
    .ok (.reservedGid96 7#3 3#3 (bits "00101011111110010001001111110101011000110110111110")) := by decide +kernel
theorem test_decode_unsupported : decode (.image (str "2F18")) = .ok (.unsupported 47#8 (bits "00011000")) := by decide +kernel
theorem test_decode_partition7 : decode (.image (str "321C")) = .ok (.partition7 50#8 0#3 (bits "00")) := by decide +kernel

/-! ### Decoding rejects by name, and the words of the table -/

theorem test_reject_select_zero : decode (.command { op := 0 }) = .error .reservedSelect := by decide
theorem test_reject_select_eleven : decode (.command { op := 11 }) = .error .reservedSelect := by decide
theorem test_reject_space : decode (.image (str "30 18")) = .error .malformedHex := by decide
theorem test_reject_short : decode (.image (str "30")) = .error .imageTooShort := by decide
theorem test_reject_length_88 : decode (.image (str "3018000000000000000001")) = .error .sgtin96LengthNot96 := by
  decide +kernel
theorem test_table_word_dec : decodeTableWord 8 5 = some (.dec (List.replicate 24 48#8)) := by decide
theorem test_table_word_sgtin96 : decodeTableWord 8 48 = some (.sgtin96P0 0#3 0#40 0#4 0#38) := by decide +kernel
theorem test_table_word_partition : decodeTableWord 16 0x1830 = some (.sgtin96P6 0#3 0#20 0#24 0#38) := by
  decide +kernel
theorem test_table_word_runs : reply (step (State.reset.withFetchWord 8 0xCE)) =
    .port (some { status := .notImplemented, variant := some (.reserved .dod64) }) := by decide +kernel

/-! ### Well-formedness: a term each check refuses -/

theorem test_wf_sgtin198_nibbles : (Instr.sgtin198P0 0 0 0 (zeros 140)).wf = false := by decide +kernel
theorem test_wf_sgtin198_ok : (Instr.sgtin198P0 0 0 0 (zeros 142)).wf = true := by decide +kernel
theorem test_wf_sscc96_nibbles : (Instr.sscc96P6 0 0 0 (zeros 23)).wf = false := by decide
theorem test_wf_reserved_partition : (Instr.reservedGln96 0 7 (zeros 46)).wf = false := by decide
theorem test_wf_reserved_short : (Instr.reservedGln96 0 6 (zeros 42)).wf = false := by decide
theorem test_wf_reserved_nibbles : (Instr.reservedGln96 0 6 (zeros 45)).wf = false := by decide
theorem test_wf_reserved_ok : (Instr.reservedGln96 0 6 (zeros 46)).wf = true := by decide
theorem test_wf_unsupported_in_table : (Instr.unsupported 48 (zeros 8)).wf = false := by decide
theorem test_wf_unsupported_nibbles : (Instr.unsupported 47 (zeros 7)).wf = false := by decide
theorem test_wf_partition7_header : (Instr.partition7 47 0 (zeros 2)).wf = false := by decide
theorem test_wf_partition7_nibbles : (Instr.partition7 48 0 (zeros 3)).wf = false := by decide

/-! ### The sub-blocks (spec/95_test_vectors.md, section 2) -/

/-- V-BS-12, V-BS-11. -/
theorem test_bitsToHex_short_group : bitsToHex (bits "1010010111") = str "A53" ∧ bitsToHex (bits "110") = str "6" := by
  decide
/-- V-BS-15. -/
theorem test_hex_back_is_longer : hexToBits (bitsToHex (bits "1010010111")) = some (bits "101001010011") := by decide
/-- V-BS-16. -/
theorem test_padLeft : padLeftDigits (str "37000") 7 = str "0037000" ∧ padLeftDigits (str "1048575") 6 = str "1048575" := by
  decide
/-- V-BS-17. -/
theorem test_padRight : padRight (bits "10000011000010") 20 = bits "10000011000010000000" := by decide
/-- V-BS-18. -/
theorem test_toBits_999 : toBits 999 38 = bits "00000000000000000000000000001111100111" := by decide
/-- V-BS-19. -/
theorem test_dec_parse : parseDec (str "0037000") = 37000 ∧ dec 0 = str "0" ∧ dec 37000 = str "37000" := by decide
/-- V-BS-20. -/
theorem test_bitlen : bitlen 0 = 0 ∧ bitlen 1 = 1 ∧ bitlen 1048575 = 20 ∧ bitlen 1048576 = 21 := by decide
/-- V-A7-8, V-A7-9, V-A7-10. -/
theorem test_decode7bit : decode7bit (bits "000101100010100001001") = [11, 10] ∧
    decode7bit (bits "1000001110000") = str "A0" ∧ decode7bit (bits "1000001001001") = str "A" := by decide
/-- V-A7-4. -/
theorem test_encode7bit_128 : encode7bit [128] = none := by decide
/-- Section 2.4: the sums of 56 nines and of the GTIN payload. -/
theorem test_weightedSum : weightedSum (List.replicate 56 57#8) = 1008 ∧ weightedSum (str "0003700065735") = 86 := by
  decide

/-! ### The operations, at any state -/

/-- S3. -/
theorem test_encSgtin96_S3 (s : State) : exec (.encSgtin96 3 5 (str "0037000") (str "65735") (str "999")) s =
    .next (s.respond (Response.ofImage (str "30740242204031C0000003E7"))) := rfl
/-- V-96-12: 2^38 is neither an error nor an image. -/
theorem test_encSgtin96_two_to_38 (s : State) :
    exec (.encSgtin96 1 3 (str "123456789") (str "12345") (str "274877906944")) s = .refused .serialNeeds39Bits := rfl
/-- S4. -/
theorem test_encSgtin198_S4 (s : State) :
    exec (.encSgtin198 1 6 (str "030430") (str "0058045") (str "12345abcABC012345678")) s =
      .next (s.respond (Response.ofImage (str "36381DB78038AF58B266D1AE1C58E0C286C18B266D1AB66EE0"))) :=
  exec_of_reply (s' := .reset) (by decide +kernel) s
/-- V-198-7: the item reference before the serial's length. -/
theorem test_encSgtin198_order (s : State) :
    exec (.encSgtin198 3 5 (str "0614141") (str "99999999") (str "123456789012345678901")) s =
      .next (s.respond (Response.ofError .itemReferenceTooLong)) := rfl
/-- S5. -/
theorem test_encSscc96_S5 (s : State) : exec (.encSscc96 2 5 (str "4032046") (str "3") (str "0")) s =
    .next (s.respond (Response.ofImage (str "3154F618B8B2D05E00000000"))) := rfl
/-- V-SS-9. -/
theorem test_encSscc96_overflow (s : State) : exec (.encSscc96 3 0 (str "1") (str "2") (str "62144")) s =
    .refused .serialReferenceOverflow := rfl
/-- V-RS-1. -/
theorem test_reserSgtin96 (s : State) : exec (.reserSgtin96 (str "30740242204031C0000003E7") (str "1000")) s =
    .next (s.respond (Response.ofImage (str "30740242204031C0000003E8"))) := rfl
/-- V-RS-4: decode errors first. -/
theorem test_reserSgtin96_malformed (s : State) : exec (.reserSgtin96 (str "3G") (str "abc")) s =
    .next (s.respond (Response.ofError .malformedHex)) := rfl
/-- V-DE-1: values longer than nominal. -/
theorem test_dec_longer_than_nominal (s : State) : exec (.dec (str "30FBFFFFFFFFFFFFFFFFFFFF")) s =
    .next (s.respond (Response.ofTag
      { variant := .sgtin96, header := 48, filter := str "7", partition := 6, companyPrefix := str "1048575",
        itemReference := some (str "16777215"), serialNumber := some (str "274877906943") })) :=
  exec_of_reply (s' := .reset) (by decide +kernel) s
/-- V-DE-3: the unallocated bits are not checked. -/
theorem test_dec_unallocated (s : State) : exec (.dec (str "3154F618B8B2D05E00ABCDEF")) s =
    .next (s.respond (Response.ofTag
      { variant := .sscc96, header := 49, filter := str "2", partition := 5, companyPrefix := str "4032046",
        serialReference := some (str "3000000000"), unallocated := some (bits "101010111100110111101111") })) :=
  exec_of_reply (s' := .reset) (by decide +kernel) s
/-- V-FA-7. -/
theorem test_decGtin_16_digits (s : State) : exec (.decGtin (str "30FBFFFFFFFFFFFFFFFFFFFF")) s =
    .next (s.respond (Response.ofDerived (some (str "1104857567772152")))) := rfl
/-- V-FA-5. -/
theorem test_decSscc (s : State) : exec (.decSscc (str "3174257BF4499602D2000000")) s =
    .next (s.respond (Response.ofDerived (some (str "106141412345678908")))) := rfl
/-- V-FA-4. -/
theorem test_decSscc_none (s : State) : exec (.decSscc (str "30740242204031C0000003E7")) s =
    .next (s.respond { status := .ok, present := some false }) := rfl
/-- V-198-4: the 20th character loses its low two bits. -/
theorem test_decSerial_last_character (s : State) :
    exec (.decSerial (str "36381DB78038AF58B266D1AE1C58E0C286C18B266D1AB66EE1")) s =
      .next (s.respond (Response.ofDerived (some (str "12345abcABC012345678")))) :=
  exec_of_reply (s' := .reset) (by decide +kernel) s
/-- R150: the abandoned request is gone, with no response. -/
theorem test_abandonTransaction : ((presenting [.image (str "3G"), .image (str "2F")]).respond
    (Response.ofValid true)).abandonTransaction = presenting [.image (str "2F")] := by decide
/-- Section 2.4. -/
theorem test_chkDigit (s : State) : exec (.chkDigit (str "629104150021")) s =
    .next (s.respond (Response.ofDigit 3)) := rfl
/-- Section 2.4. -/
theorem test_chkValid (s : State) : exec (.chkValid (str "4006381333931")) s =
    .next (s.respond (Response.ofValid true)) := rfl
/-- Section 2.4: 56 nines. -/
theorem test_chkDigit_over_1000 (s : State) :
    exec (.chkDigit (List.replicate 56 57#8)) s = .refused .checksumSumOver1000 := rfl
/-- Section 2.4: the payload of 56 nines. -/
theorem test_chkValid_over_1000 (s : State) :
    exec (.chkValid (List.replicate 56 57#8 ++ [50#8])) s = .refused .checksumSumOver1000 := rfl
/-- S1. -/
theorem test_chkValid_wrong_digit (s : State) : exec (.chkValid (str "00614141453246")) s =
    .next (s.respond (Response.ofValid false)) := rfl

/-! ### The image rows, by vectors of section 2.9: an image presented by itself -/

/-- V-DE-2. -/
theorem test_step_sgtin96P0 : reply (step (presenting [.image (str "3003FFFFFFFFFFFFFFFFFFFF")])) =
    .port (some (Response.ofTag
      { variant := .sgtin96, header := 48, filter := str "0", partition := 0, companyPrefix := str "1099511627775",
        itemReference := some (str "15"), serialNumber := some (str "274877906943") })) := by decide +kernel
/-- V-DE-20. -/
theorem test_step_sgtin198P6 :
    reply (step (presenting [.image (str "36381DB78038AF400000000000000000000000000000000000")])) =
    .port (some (Response.ofTag
      { variant := .sgtin198, header := 54, filter := str "1", partition := 6, companyPrefix := str "030430",
        itemReference := some (str "0058045"), serialNumber := some [] })) := by decide +kernel
/-- P2, step 2. -/
theorem test_step_sscc96P5 : reply (step (presenting [.image (str "3174257BF4499602D2000000")])) =
    .port (some (Response.ofTag
      { variant := .sscc96, header := 49, filter := str "3", partition := 5, companyPrefix := str "0614141",
        serialReference := some (str "1234567890"), unallocated := some (zeros 24) })) := by decide +kernel
/-- V-DE-12: 64 bits are enough for a reserved header. -/
theorem test_step_reservedDod64 : reply (step (presenting [.image (str "CE18000000000000")])) =
    .port (some { status := .notImplemented, variant := some (.reserved .dod64) }) := by decide +kernel
/-- V-DE-16. -/
theorem test_step_unsupported : reply (step (presenting [.image (str "2F")])) =
    .port (some { status := .unsupportedHeader }) := by decide +kernel
/-- V-DE-5: a reserved header with partition 7. -/
theorem test_step_partition7 : reply (step (presenting [.image (str "321C00000000000000000001")])) =
    .port (some { status := .invalidPartition }) := by decide +kernel
/-- V-DE-15: conversion of the whole image comes first. -/
theorem test_step_malformed : reply (step (presenting [.image (str "2F180000000000000000000G")])) =
    .port (some { status := .malformedHex }) := by decide +kernel

/-! ### For each statement with hypotheses, operands and a state that meet them, at the ends of their ranges -/

/-- A block with a response on the port, one transaction behind it and a request ready. -/
def busy : State :=
  { requests := [.command { op := 9, digits := str "12" }], rsp := some (Response.ofValid true),
    history := [⟨.command { op := 10, digits := str "17" }, Response.ofValid true⟩] }

/-- Whether an answer is a next state. -/
def runs (a : Answer) : Bool :=
  match a with
  | .next _ => true
  | _ => false

theorem exists_next {a : Answer} (h : runs a = true) : ∃ t, a = .next t := by
  cases a with
  | next t => exact ⟨t, rfl⟩
  | fault f => nomatch f
  | refused x => simp [runs] at h

theorem witness_StepRunsDecodedInstruction :
    (presenting [.image (str "301800000000000000000001")]).requests = [.image (str "301800000000000000000001")] ∧
      decode (.image (str "301800000000000000000001")) = .ok (.sgtin96P6 0#3 0#20 0#24 1#38) := by decide +kernel

theorem witness_UndecodableWordIsAnsweredByName :
    decode (.image (str "3G")) = .error .malformedHex ∧ decode (.image []) = .error .imageTooShort ∧
      decode (.image (str "30180000000000000000000")) = .error .sgtin96LengthNot96 ∧
      decode (.image (str "3018000000000000000000011")) = .error .sgtin96LengthNot96 ∧
      (∀ n ∈ [0#4, 11#4, 15#4], n.toNat = 0 ∨ 11 ≤ n.toNat) := by decide +kernel

theorem witness_ResetLeavesBlockIdle :
    busy.requests ≠ [] ∧ busy.requests = .command { op := 9, digits := str "12" } :: [] ∧
      ({ busy with requests := [.image (str "3G"), .image (str "2F")] } : State).requests =
        .image (str "3G") :: [.image (str "2F")] := by decide

theorem witness_ResponseIsFunctionOfRequest : busy.requests = [.command { op := 9, digits := str "12" }] := rfl

theorem witness_OrderOfRequestsIsImmaterial :
    let a : Presented := .command { op := 9, digits := str "629104150021" }
    let b : Presented := .command { op := 4, image := str "3G", serial := str "1" }
    [a, b].Perm [b, a] ∧ (presenting [a, b]).history = [] ∧ ∃ t, core.run 2 (presenting [a, b]) = .next t :=
  ⟨List.Perm.swap _ _ _, rfl, exists_next (by decide +kernel)⟩

theorem witness_ExecChangesOnlyTheResponsePort :
    (∃ t, exec (.chkDigit []) busy = .next t) ∧ ∃ t, exec (.sscc96P0 7 0 0 []) busy = .next t :=
  ⟨exists_next (by decide +kernel), exists_next (by decide +kernel)⟩

theorem witness_SoundResponsesAreInvariant : busy.Inv ∧ ∃ t, step busy = .next t :=
  ⟨⟨by intro r h; cases h; rfl, by intro t h; simp [busy] at h; subst h; rfl⟩, exists_next (by decide +kernel)⟩

theorem witness_ErrorsCarryNoResult :
    (exec (.encSgtin96 8 0 [] [] []) busy = .next (busy.respond (Response.ofError .filterOutOfRange)) ∧
      (Response.ofError .filterOutOfRange).status ≠ .ok ∧ (Response.ofError .filterOutOfRange).status ≠ .notImplemented) ∧
    (exec (.reservedDod64 0 0 (zeros 44)) busy = .next (busy.respond (Response.ofError (.notImplemented .dod64))) ∧
      (Response.ofError (.notImplemented .dod64)).status = .notImplemented) :=
  ⟨⟨rfl, by decide, by decide⟩, rfl, rfl⟩

theorem witness_DecodeOfEncodeIsIdentity :
    (Instr.dec []).wf = true ∧ (Instr.sgtin96P0 7#3 1099511627775#40 15#4 274877906943#38).wf = true ∧
      (Instr.sgtin198P6 0 0 0 (zeros 142)).wf = true ∧ (Instr.sgtin198P6 0 0 0 (zeros 2)).wf = true ∧
      (Instr.sscc96P3 0 0 0 []).wf = true ∧ (Instr.reservedGid96 0 6 (zeros 46)).wf = true ∧
      (Instr.unsupported 255#8 []).wf = true ∧ (Instr.partition7 207#8 7#3 (zeros 2)).wf = true := by decide +kernel

theorem witness_DecodeKeepsEveryImageBit :
    hexToBits (str "CE1800000000000") = some (bits "110011100001100000000000000000000000000000000000000000000000") ∧
      decode (.image (str "CE1800000000000")) = .ok (.reservedDod64 0#3 6#3 (zeros 46)) := by decide +kernel

theorem witness_UnnamedOperandsAreIgnored :
    let r : Request := { op := 2, filter := 1, digits := str "5", image := str "30", extension := str "3" }
    let q : Request := { op := 2, filter := 1, digits := [], image := [], extension := [] }
    (r.op = q.op ∧ r.op.toNat ∈ [1, 2] ∧ r ≠ q ∧ r.filter = q.filter ∧ r.partition = q.partition ∧
      r.companyPrefix = q.companyPrefix ∧ r.itemReference = q.itemReference ∧ r.serial = q.serial) ∧
    (({ op := 3, itemReference := str "1" } : Request).op.toNat = 3 ∧ (4#4).toNat = 4 ∧
      (5#4).toNat ∈ [5, 6, 7, 8] ∧ (8#4).toNat ∈ [5, 6, 7, 8] ∧ (10#4).toNat ∈ [9, 10]) := by decide

theorem witness_PresentedImageIsAnsweredAsDec :
    decode (.image (str "3174257BF4499602D2000000")) = .ok (.sscc96P5 3#3 614141#24 1234567890#34 (zeros 24)) := by
  decide +kernel

theorem witness_HeaderTableHoldsNineBytes :
    (∀ n ∈ [0, 47, 55, 205, 208, 255, 256], n ∉ [206, 207, 54, 48, 49, 50, 51, 52, 53]) := by decide

theorem witness_PartitionRowsFillTheImage :
    partitionEntry 0 = some ⟨40, 42, 18⟩ ∧ partitionEntry 6 = some ⟨20, 62, 38⟩ := by decide

theorem witness_HexConversionFailsOnlyOnNonDigits :
    hexToBits (str "0F") = some (bits "00001111") ∧
      (∀ c ∈ [48#8, 57#8, 65#8, 70#8], isUpperHex c = true) ∧
      (∀ c ∈ [97#8, 102#8], 97 ≤ c.toNat ∧ c.toNat ≤ 102) ∧
      (∀ c ∈ [0#8, 47#8, 58#8, 64#8, 71#8, 96#8, 103#8, 255#8],
        isUpperHex c = false ∧ ¬(97 ≤ c.toNat ∧ c.toNat ≤ 102)) := by decide

theorem witness_ToBitsIsTheOnlySequenceOfItsValue :
    1048575 < 2 ^ 20 ∧ (List.replicate 20 true).length = 20 ∧ bitsToUnsigned (List.replicate 20 true) = 1048575 ∧
      2 ^ 20 ≤ 1048576 := by decide

theorem witness_DecIsTheShortestRendering :
    isDigitStr (str "0037000") = true ∧ parseDec (str "0037000") = 37000 ∧ isDigitStr (str "00") = true ∧
      parseDec (str "00") = 0 := by decide

theorem witness_SevenBitDecodeDropsLowCodes :
    encode7bit [9, 10, 127] = some (bits "000100100010101111111") ∧ encode7bit [] = some [] := by decide

theorem witness_FiftyFiveDigitsStayInRange :
    (List.replicate 55 57#8).all isDigit = true ∧ (List.replicate 55 57#8).length ≤ 55 := by decide +kernel

theorem witness_WeightsAlternateFromTheRight : weightedSum (49#8 :: List.replicate 55 57#8) ≤ 1000 := by decide +kernel

theorem witness_ChkDigitAnswersTheCheckDigit :
    weightedSum [] ≤ 1000 ∧ isDigitStr (49#8 :: List.replicate 55 57#8) = true ∧
      weightedSum (49#8 :: List.replicate 55 57#8) = 1000 ∧ str "6A" ≠ [] ∧ isDigitStr (str "6A") = false ∧
      isDigitStr (50#8 :: List.replicate 55 57#8) = true ∧ weightedSum (50#8 :: List.replicate 55 57#8) = 1001 := by
  decide +kernel

/-- A sum of 1001 and one of 1000. -/
theorem witness_ChecksumIsRefusedAboveOneThousand :
    isDigitStr (50#8 :: List.replicate 55 57#8) = true ∧ isDigit 48#8 = true ∧ isDigit 57#8 = true ∧
      weightedSum (50#8 :: List.replicate 55 57#8) = 1001 ∧ isDigitStr (49#8 :: List.replicate 55 57#8) = true ∧
      weightedSum (49#8 :: List.replicate 55 57#8) = 1000 := by decide +kernel

theorem witness_ChkValidAnswersThePredicate :
    weightedSum ([] : Str).dropLast ≤ 1000 ∧
      (exec (.chkValid (str "4006381333931")) busy = .next (busy.respond (Response.ofValid true))) ∧
      isDigitStr [] = false ∧ isDigitStr (str "1-") = false ∧ ([] : Str).all isDigit = true ∧ isDigit 48#8 = true ∧
      (49#8 :: List.replicate 55 57#8).all isDigit = true ∧ weightedSum (49#8 :: List.replicate 55 57#8) ≤ 1000 ∧
      (50#8 :: List.replicate 55 57#8).all isDigit = true ∧ 1000 < weightedSum (50#8 :: List.replicate 55 57#8) :=
  ⟨by decide, test_chkValid _, by decide, by decide, by decide, by decide, by decide +kernel, by decide +kernel,
    by decide +kernel, by decide +kernel⟩

theorem witness_FilterIsCheckedFirst :
    (∀ i ∈ encoderOps 8 7 [] [] [], i ∈ encoderOps 8 7 [] [] []) ∧
      Instr.encSscc96 7 0 (str "1") (str "2") (str "3") ∈ encoderOps 7 0 (str "1") (str "2") (str "3") ∧
      ∃ t, exec (.encSscc96 7 0 (str "1") (str "2") (str "3")) busy = .next t :=
  ⟨fun _ h => h, by decide, exists_next (by decide +kernel)⟩

theorem witness_PartitionIsCheckedSecond :
    Instr.encSgtin198 7 7 [] [] [] ∈ encoderOps 7 7 [] [] [] ∧
      Instr.encSgtin96 7 6 (str "1") (str "2") (str "3") ∈ encoderOps 7 6 (str "1") (str "2") (str "3") ∧
      ∃ t, exec (.encSgtin96 7 6 (str "1") (str "2") (str "3")) busy = .next t :=
  ⟨by decide, by decide, exists_next (by decide +kernel)⟩

theorem witness_CompanyPrefixIsCheckedByValue :
    Instr.encSgtin96 0 6 (str "1048575") (str "2") (str "3") ∈ encoderOps 0 6 (str "1048575") (str "2") (str "3") ∧
      partitionEntry 6 = some ⟨20, 62, 38⟩ ∧ isDigitStr [] = false ∧ isDigitStr (str "1048576") = true ∧
      2 ^ 20 ≤ parseDec (str "1048576") ∧ isDigitStr (str "1048575") = true ∧ parseDec (str "1048575") < 2 ^ 20 ∧
      ∃ t, exec (.encSgtin96 0 6 (str "1048575") (str "2") (str "3")) busy = .next t :=
  ⟨by decide, by decide, by decide, by decide, by decide, by decide, by decide, exists_next (by decide +kernel)⟩

theorem witness_ItemReferenceIsCheckedByValue :
    partitionEntry 0 = some ⟨40, 42, 18⟩ ∧ isDigitStr (str "1099511627775") = true ∧
      parseDec (str "1099511627775") < 2 ^ 40 ∧ isDigitStr (str "x") = false ∧ isDigitStr (str "16") = true ∧
      2 ^ (PartitionEntry.irw ⟨40, 42, 18⟩) ≤ parseDec (str "16") ∧
      parseDec (str "15") < 2 ^ (PartitionEntry.irw ⟨40, 42, 18⟩) ∧
      (∃ t, exec (.encSgtin198 7 0 (str "1099511627775") (str "15") []) busy = .next t) ∧
      ∃ t, exec (.encSscc96 7 0 (str "1099511627775") (str "9") []) busy = .next t :=
  ⟨by decide, by decide, by decide, by decide, by decide, by decide, by decide, exists_next (by decide +kernel),
    exists_next (by decide +kernel)⟩

/-- Operands at the top of every range: partition 0, all ones. -/
theorem witness_PassesSharedChecks :
    PassesSharedChecks 7 0 ⟨40, 42, 18⟩ (str "1099511627775") (str "15") ∧
      PassesSharedChecks 0 6 ⟨20, 62, 38⟩ (str "1048575") (str "16777215") := by
  unfold PassesSharedChecks; decide

/-- With `witness_PassesSharedChecks`. -/
theorem witness_SerialOfSgtin96IsCheckedLast :
    isDigitStr (str "274877906945") = true ∧ 2 ^ 38 < parseDec (str "274877906945") ∧
      isDigitStr (str "274877906944") = true ∧ parseDec (str "274877906944") = 2 ^ 38 ∧ isDigitStr (str "5") = true ∧
      str "+5" = 43#8 :: str "5" ∧ str "-5" = 45#8 :: str "5" ∧ isDigitStr (str "+") = false ∧ isDigitStr [] = false := by
  decide

theorem witness_SerialNotNumeric : ∀ digits : Str, isDigitStr digits = true → str "+" ≠ 43#8 :: digits ∧
    str "+" ≠ 45#8 :: digits := by
  intro digits h
  refine ⟨?_, ?_⟩ <;> intro hd
  · have : digits = [] := by simpa [str] using hd.symm
    rw [this] at h; cases h
  · simp [str] at hd

/-- With `witness_PassesSharedChecks`; also for Sgtin96ImageAsANumber and the serials below 2^38 of the statement before. -/
theorem witness_EncSgtin96PacksTheImage :
    isDigitStr (str "274877906943") = true ∧ parseDec (str "274877906943") < 2 ^ 38 := by decide

/-- With `witness_PassesSharedChecks`. -/
theorem witness_EncSgtin198PacksTheImage :
    20 < (List.replicate 21 65#8).length ∧ (List.replicate 20 127#8).length ≤ 20 ∧
      (∀ c ∈ List.replicate 20 127#8, c.toNat < 128) ∧ (∃ c ∈ [128#8], 128 ≤ c.toNat) := by decide

/-- Also for Sscc96ImageAsANumber. -/
theorem witness_EncSscc96PacksTheImage :
    (partitionEntry 0 = some ⟨40, 42, 18⟩ ∧ isDigitStr (str "1") = true ∧ parseDec (str "1") < 2 ^ 40) ∧
      ([] : Str).length ≠ 1 ∧ (str "12").length ≠ 1 ∧ (str "2").length = 1 ∧
      isDigitStr (str "2" ++ padLeftDigits (str "x") 4) = false ∧
      isDigitStr (str "2" ++ padLeftDigits (str "62144") 4) = true ∧
      parseDec (str "2" ++ padLeftDigits (str "62144") 4) = 2 ^ 18 ∧
      FitsSerialReference 0 ⟨40, 42, 18⟩ (str "2") (str "62143") ∧
      FitsSerialReference 0 ⟨40, 42, 18⟩ (str "0") [] := by
  unfold FitsSerialReference; decide

theorem witness_EncodersEmitWholeImages :
    exec (.encSgtin96 3 5 (str "0037000") (str "65735") (str "999")) busy =
      .next (busy.respond (Response.ofImage (str "30740242204031C0000003E7"))) ∧
    exec (.encSgtin198 1 6 (str "030430") (str "0058045") (str "12345abcABC012345678")) busy =
      .next (busy.respond (Response.ofImage (str "36381DB78038AF58B266D1AE1C58E0C286C18B266D1AB66EE0"))) ∧
    exec (.encSscc96 2 5 (str "4032046") (str "3") (str "0")) busy =
      .next (busy.respond (Response.ofImage (str "3154F618B8B2D05E00000000"))) ∧
    exec (.reserSgtin96 (str "30740242204031C0000003E7") (str "abc")) busy =
      .next (busy.respond (Response.ofError .serialNotNumeric)) :=
  ⟨test_encSgtin96_S3 _, test_encSgtin198_S4 _, test_encSscc96_S5 _, exec_of_reply (s' := .reset) (by decide +kernel) _⟩

theorem witness_LeadingZerosChangeNoSgtin96Response :
    isDigitStr (str "0") = true ∧ isDigitStr (str "12") = true ∧ isDigitStr (str "999") = true := by decide

/-- The image of S3, its partition row and its length: for ReserializeReplacesTheSerial, DecFillsTheSgtin96Map and, with
`LengthDecodes`, DecGtinAssemblesTheGtin, DecSsccAssemblesTheSscc and DecSerialGivesTheSerial. -/
theorem witness_ImageIs_sgtin96 :
    let b := bits ("001100000111010000000010010000100010000001000000" ++ "001100011100000000000000000000000000001111100111")
    ImageIs .sgtin96 (str "30740242204031C0000003E7") b 5 ⟨24, 58, 34⟩ ∧ b.length = 96 ∧
      LengthDecodes .sgtin96 b.length := by
  unfold ImageIs LengthDecodes; decide +kernel

/-- An image of header 48 of another length, 60 bits: for the second clause of DecFillsTheSgtin96Map. -/
theorem witness_DecFillsTheSgtin96Map :
    let b := bits "001100000001100000000000000000000000000000000000000000000000"
    ImageIs .sgtin96 (str "301800000000000") b 6 ⟨20, 62, 38⟩ ∧ 58 ≤ b.length ∧ b.length ≠ 96 := by
  unfold ImageIs; decide +kernel

/-- The shortest SGTIN-198 image of whole characters, 60 bits: for DecFillsTheSgtin198Map and the three derivations. -/
theorem witness_ImageIs_sgtin198 :
    let b := bits "001101100001100000000000000000000000000000000000000000000000"
    ImageIs .sgtin198 (str "361800000000000") b 6 ⟨20, 62, 38⟩ ∧ 58 ≤ b.length ∧ LengthDecodes .sgtin198 b.length := by
  unfold ImageIs LengthDecodes; decide +kernel

/-- The shortest SSCC-96 image, 72 bits, none of them unallocated: for DecFillsTheSscc96Map and the three derivations. -/
theorem witness_ImageIs_sscc96 :
    let b := bits "001100010000000000000000000000000000000000000000000000000000000000000000"
    ImageIs .sscc96 (str "310000000000000000") b 0 ⟨40, 42, 18⟩ ∧ b.length = 72 ∧ LengthDecodes .sscc96 b.length := by
  unfold ImageIs LengthDecodes; decide +kernel

theorem witness_ReserializeErrorsInOrder :
    exec (.dec (str "3G")) busy = .next (busy.respond (Response.ofError .malformedHex)) ∧
      exec (.dec (str "3")) busy = .refused .imageTooShort ∧
      exec (.dec (str "310000000000000000")) busy = .next (busy.respond (Response.ofTag (sscc96Tag 0 0 0 0 []))) ∧
      (sscc96Tag 0 0 0 0 []).header ≠ 48 ∧
      exec (.dec (str "30740242204031C0000003E7")) busy =
        .next (busy.respond (Response.ofTag (sgtin96Tag 5 3 37000 65735 999))) ∧
      (sgtin96Tag 5 3 37000 65735 999).header = 48 ∧ isDigitStr (str "abc") = false ∧
      2 ^ 38 ≤ parseDec (str "274877906944") :=
  ⟨execDec_of_raise (by decide +kernel) _, execDec_of_refuse (by decide +kernel) _, execDec_of_ok (by decide +kernel) _,
    by decide, execDec_of_ok (by decide +kernel) _, by decide, by decide, by decide⟩

theorem witness_DecodingErrorsAndTheirCauses :
    (∀ i ∈ decodingOps [] [], i ∈ [Instr.dec [], .decGtin [], .decSscc [], .decSerial [], .reserSgtin96 [] []]) ∧
      hexToBits (str "2F180000000000000000000G") = none ∧ hexToBits (str "2F") = some (bits "00101111") ∧
      headerTable (bitsToUnsigned (takeBits (bits "00101111") 0 8)) = none ∧
      hexToBits (str "321C") = some (bits "0011001000011100") ∧
      headerTable (bitsToUnsigned (takeBits (bits "0011001000011100") 0 8)) = some (.reserved .gln96) ∧
      bitsToUnsigned (takeBits (bits "0011001000011100") 11 3) = 7 ∧
      hexToBits (str "351800000000000") = some (bits "001101010001100000000000000000000000000000000000000000000000") ∧
      headerTable (bitsToUnsigned (takeBits (bits "001101010001100000000000000000000000000000000000000000000000") 0 8)) =
        some (.reserved .gid96) ∧
      bitsToUnsigned (takeBits (bits "001101010001100000000000000000000000000000000000000000000000") 11 3) ≠ 7 := by
  decide +kernel

theorem witness_ShortImagesAreRefused :
    (hexToBits [] = some [] ∧ hexToBits (str "3") = some (bits "0011")) ∧
      hexToBits (str "301") = some (bits "001100000001") ∧
      (hexToBits (str "30180000000000") = some (bits "00110000000110000000000000000000000000000000000000000000") ∧
        bitsToUnsigned (takeBits (bits "00110000000110000000000000000000000000000000000000000000") 11 3) ≠ 7) ∧
      (hexToBits (str "31000000000000000") =
          some (bits "00110001000000000000000000000000000000000000000000000000000000000000") ∧
        headerTable (bitsToUnsigned (takeBits (bits "00110001000000000000000000000000000000000000000000000000000000000000")
          0 8)) = some .sscc96) ∧
      (hexToBits (str "301800000000000") = some (bits "001100000001100000000000000000000000000000000000000000000000") ∧
        headerTable (bitsToUnsigned (takeBits (bits "001100000001100000000000000000000000000000000000000000000000") 0 8)) =
          some .sgtin96) := by decide +kernel

theorem witness_DeliveredIdentifiersValidate :
    exec (.decGtin (str "30740242204031C0000003E7")) busy =
      .next (busy.respond (Response.ofDerived (some (str "00037000657354")))) ∧
    exec (.decSscc (str "3174257BF4499602D2000000")) busy =
      .next (busy.respond (Response.ofDerived (some (str "106141412345678908")))) :=
  ⟨exec_of_reply (s' := .reset) (by decide +kernel) _, test_decSscc _⟩

theorem witness_NominalFieldsGiveNominalIdentifiers :
    (exec (.dec (str "30740242204031C0000003E7")) busy =
        .next (busy.respond (Response.ofTag (sgtin96Tag 5 3 37000 65735 999))) ∧
      (sgtin96Tag 5 3 37000 65735 999).companyPrefix.length = 12 - 5 ∧
      (sgtin96Tag 5 3 37000 65735 999).itemReference.map List.length = some (1 + 5)) ∧
    (exec (.dec (str "3174257BF4499602D2000000")) busy =
        .next (busy.respond (Response.ofTag (sscc96Tag 5 3 614141 1234567890 (zeros 24)))) ∧
      (sscc96Tag 5 3 614141 1234567890 (zeros 24)).companyPrefix.length = 12 - 5 ∧
      (sscc96Tag 5 3 614141 1234567890 (zeros 24)).serialReference.map List.length = some (5 + 5)) :=
  ⟨⟨execDec_of_ok (by decide +kernel) _, by decide, by decide⟩, execDec_of_ok (by decide +kernel) _, by decide, by decide⟩

theorem witness_DecodeFillsTheFieldsOfItsVariant :
    exec (.dec (str "310000000000000000")) busy = .next (busy.respond (Response.ofTag (sscc96Tag 0 0 0 0 []))) ∧
      (sscc96Tag 0 0 0 0 []).variant = .sscc96 ∧
      exec (.dec (str "361800000000000")) busy = .next (busy.respond (Response.ofTag (sgtin198Tag 6 0 0 0 (zeros 2)))) ∧
      (sgtin198Tag 6 0 0 0 (zeros 2)).variant = .sgtin198 ∧
      exec (.dec (str "30740242204031C0000003E7")) busy =
        .next (busy.respond (Response.ofTag (sgtin96Tag 5 3 37000 65735 999))) ∧
      (sgtin96Tag 5 3 37000 65735 999).variant = .sgtin96 :=
  ⟨execDec_of_ok (by decide +kernel) _, rfl, execDec_of_ok (by decide +kernel) _, rfl,
    execDec_of_ok (by decide +kernel) _, rfl⟩

/-- With serial 2^38 − 1 and all other fields at their greatest. -/
theorem witness_Sgtin96RoundTrip :
    exec (.encSgtin96 7 0 (str "1099511627775") (str "15") (str "274877906943")) busy =
      .next (busy.respond (Response.ofImage (str "30E3FFFFFFFFFFFFFFFFFFFF"))) := exec_of_reply (s' := .reset) (by decide +kernel) _

/-- A serial of 20 characters, and one of none. -/
theorem witness_Sgtin198RoundTrip :
    exec (.encSgtin198 1 6 (str "030430") (str "0058045") (str "12345abcABC012345678")) busy =
      .next (busy.respond (Response.ofImage (str "36381DB78038AF58B266D1AE1C58E0C286C18B266D1AB66EE0"))) ∧
    exec (.encSgtin198 1 6 (str "030430") (str "0058045") []) busy =
      .next (busy.respond (Response.ofImage (str "36381DB78038AF400000000000000000000000000000000000"))) :=
  ⟨test_encSgtin198_S4 _, exec_of_reply (s' := .reset) (by decide +kernel) _⟩

theorem witness_Sscc96RoundTrip :
    exec (.encSscc96 2 5 (str "4032046") (str "3") (str "0")) busy =
      .next (busy.respond (Response.ofImage (str "3154F618B8B2D05E00000000"))) := test_encSscc96_S5 _

theorem witness_ReservedRowsAreNotImplemented :
    ((Instr.reservedGid96 0 6 (zeros 44), ReservedName.gid96) ∈
        [(Instr.reservedDod64 0 6 (zeros 44), ReservedName.dod64), (.reservedDod96 0 6 (zeros 44), .dod96),
          (.reservedGln96 0 6 (zeros 44), .gln96), (.reservedGrai96 0 6 (zeros 44), .grai96),
          (.reservedGiai96 0 6 (zeros 44), .giai96), (.reservedGid96 0 6 (zeros 44), .gid96)]) ∧
      (6#3 ≠ 7#3 ∧ 44 ≤ (zeros 44).length ∧ (zeros 43).length < 44) ∧
      (Instr.reservedGid96 0 7 [], ReservedName.gid96) ∈
        [(Instr.reservedDod64 0 7 [], ReservedName.dod64), (.reservedDod96 0 7 [], .dod96),
          (.reservedGln96 0 7 [], .gln96), (.reservedGrai96 0 7 [], .grai96),
          (.reservedGiai96 0 7 [], .giai96), (.reservedGid96 0 7 [], .gid96)] := by
  decide +kernel

theorem witness_UnsupportedAndPartitionSevenRows :
    headerTable (48#8).toNat ≠ none ∧ headerTable (207#8).toNat ≠ none := by decide

/-- A request whose transaction a reset abandons, with one behind it, and one with none behind it. -/
theorem witness_AbandonedTransactionLosesItsResponseOnly :
    (∃ t, core.run 2 { busy with requests := [.image (str "3G"), .image (str "2F")] } = .next t) ∧
      ∃ t, core.run 1 busy = .next t :=
  ⟨exists_next (by decide +kernel), exists_next (by decide +kernel)⟩

end Sys2Proof.Tests
end

/-! The facts about numbers, digits and bits that the soundness of responses rests on. -/

namespace Sys2Proof

/-! ### Decimal strings (R56, R57) -/

theorem digitVal_digitChar {v : Nat} (h : v < 10) : digitVal (digitChar v) = v := by
  simp only [digitVal, digitChar, BitVec.toNat_ofNat]
  omega

theorem parseDec_append_singleton (s : Str) (c : Chr) : parseDec (s ++ [c]) = 10 * parseDec s + digitVal c := by
  simp [parseDec]

/-- R53, R56: zeros in front of a digit string do not change its value. -/
@[simp] theorem parseDec_padLeftDigits (s : Str) (width : Nat) : parseDec (padLeftDigits s width) = parseDec s := by
  have leadingZeros : ∀ k, (List.replicate k 48#8).foldl (fun v c => 10 * v + digitVal c) 0 = 0 := by
    intro k
    induction k with
    | zero => rfl
    | succ k ih => simpa [List.replicate_succ, digitVal] using ih
  simp only [parseDec, padLeftDigits, padLeft, List.foldl_append, leadingZeros]

theorem parseDec_decDigits {n v : Nat} (h : v < 2 ^ n) : parseDec (decDigits n v) = v := by
  induction n generalizing v with
  | zero => simp [decDigits, parseDec, Nat.lt_one_iff.1 (by simpa using h)]
  | succ n ih =>
    by_cases hv : v < 10
    · simp [decDigits, hv, parseDec, digitVal_digitChar hv]
    · have quotient : v / 10 < 2 ^ n := by rw [pow_succ] at h; omega
      have lastDigit : v % 10 < 10 := Nat.mod_lt _ (by decide)
      rw [decDigits, if_neg hv, parseDec_append_singleton, ih quotient, digitVal_digitChar lastDigit]
      omega

/-- R57: the rendering of a number has that number's value. -/
@[simp] theorem parseDec_dec (v : Nat) : parseDec (dec v) = v := parseDec_decDigits Nat.lt_log2_self

theorem decDigits_length_le {k v : Nat} (n : Nat) (h : v < 10 ^ (k + 1)) : (decDigits n v).length ≤ k + 1 := by
  induction n generalizing k v with
  | zero => simp [decDigits]
  | succ n ih =>
    by_cases hv : v < 10
    · simp [decDigits, hv]
    · obtain _ | k := k
      · omega
      · have quotient : v / 10 < 10 ^ (k + 1) := by rw [pow_succ] at h; omega
        simpa [decDigits, hv] using ih quotient

/-- R57: a number below `10^n` has at most `n` digits. -/
theorem dec_length_le {n v : Nat} (hn : 0 < n) (h : v < 10 ^ n) : (dec v).length ≤ n := by
  obtain _ | k := n
  · omega
  · exact decDigits_length_le _ h

/-- R57: a rendering is not empty. -/
theorem dec_length_pos (v : Nat) : 0 < (dec v).length := by
  unfold dec decDigits
  split <;> simp

/-! ### Bit sequences (R51, R52, R55, R71) -/

/-- R51: the value of a bit sequence is below two to its length. -/
theorem bitsToUnsigned_lt (b : BitSeq) : bitsToUnsigned b < 2 ^ b.length := by
  induction b using List.reverseRecOn with
  | nil => simp
  | append_singleton b x ih =>
    have bit : bitsToUnsigned [x] < 2 := by cases x <;> decide
    rw [bitsToUnsigned_append, List.length_append, pow_add]
    simp only [List.length_singleton, pow_one]
    omega

theorem bitsToUnsigned_lt_of_length_le {b : BitSeq} {w : Nat} (h : b.length ≤ w) : bitsToUnsigned b < 2 ^ w :=
  (bitsToUnsigned_lt b).trans_le (Nat.pow_le_pow_right (by decide) h)

/-- R22: a field of `w` bits is below `2^w`. -/
theorem bitsToUnsigned_takeBits_lt (b : BitSeq) (off w : Nat) : bitsToUnsigned (takeBits b off w) < 2 ^ w :=
  bitsToUnsigned_lt_of_length_le (by simp [takeBits])

/-- R55: a number that fits its field is packed to the field's width. -/
theorem toBits_length {v w : Nat} (h : v < 2 ^ w) : (toBits v w).length = w := by
  have fits : (binary v).length ≤ w := by simpa [binary] using (Machine.bitlen_le_iff v w).2 h
  rw [toBits, padLeft_length, max_eq_left fits]

theorem length_le_of_mem_groups {w n : Nat} {b g : BitSeq} (h : g ∈ groups w n b) : g.length ≤ w := by
  induction n generalizing b with
  | zero => simp [groups] at h
  | succ n ih =>
    rw [groups] at h
    split at h
    · simp at h
    · rcases List.mem_cons.1 h with rfl | h
      · simp
      · exact ih h

/-- R52, R71: the value of every group of `w` bits is below `2^w`. -/
theorem bitsToUnsigned_lt_of_mem_groupsOf {w : Nat} {b g : BitSeq} (h : g ∈ groupsOf w b) :
    bitsToUnsigned g < 2 ^ w :=
  bitsToUnsigned_lt_of_length_le (length_le_of_mem_groups h)

/-- The groups cover the sequence, and only the last of them can be short. -/
theorem groups_length_bounds {w n : Nat} {b : BitSeq} (hw : 0 < w) (h : b.length ≤ n) :
    b.length ≤ w * (groups w n b).length ∧ w * (groups w n b).length < b.length + w := by
  induction n generalizing b with
  | zero => simp_all [groups]
  | succ n ih =>
    cases b with
    | nil => simpa [groups] using hw
    | cons x xs =>
      by_cases short : (x :: xs).length ≤ w
      · simp only [groups, List.drop_eq_nil_of_le short, groups_nil, List.isEmpty_cons, Bool.false_eq_true, if_false,
          List.length_cons, List.length_nil] at short ⊢
        omega
      · have rest := ih (b := (x :: xs).drop w) (by simp only [List.length_drop, List.length_cons] at h ⊢; omega)
        simp only [groups, List.isEmpty_cons, Bool.false_eq_true, if_false, List.length_cons, List.length_drop,
          Nat.mul_succ] at rest short ⊢
        omega

/-- R52: one character for every 4 bits, and one for the short group. -/
theorem bitsToHex_length (b : BitSeq) : (bitsToHex b).length = (b.length + 3) / 4 := by
  have bounds := groups_length_bounds (w := 4) (by decide) (Nat.le_refl b.length)
  simp only [bitsToHex, groupsOf, List.length_map]
  omega

theorem isUpperHex_hexChar {v : Nat} (h : v < 16) : Machine.isUpperHex (hexChar v) = true := by
  interval_cases v <;> decide

/-- R52, R36: only uppercase hexadecimal characters. -/
theorem bitsToHex_all_isUpperHex (b : BitSeq) : (bitsToHex b).all Machine.isUpperHex = true := by
  simp only [bitsToHex, List.all_map, List.all_eq_true]
  exact fun g hg => isUpperHex_hexChar (bitsToUnsigned_lt_of_mem_groupsOf hg)

/-! ### 7-bit strings (R70, R71) -/

/-- R70: 7 bits a character. -/
theorem encode7bit_length {s : Str} {b : BitSeq} (h : encode7bit s = some b) : b.length = 7 * s.length := by
  induction s generalizing b with
  | nil => cases h; rfl
  | cons c cs ih =>
    by_cases hc : 128 ≤ c.toNat
    · simp [encode7bit, hc] at h
    · simp only [encode7bit, if_neg hc, Option.map_eq_some_iff] at h
      obtain ⟨d, hd, rfl⟩ := h
      have block : (toBits c.toNat 7).length = 7 := toBits_length (by omega)
      simp only [List.length_append, block, ih hd, List.length_cons]
      omega

/-- R71: a decoded character has a code from 10 to 127. -/
theorem decode7bit_all (b : BitSeq) :
    (decode7bit b).all (fun c => decide (9 < c.toNat ∧ c.toNat < 128)) = true := by
  simp only [decode7bit, List.all_map, List.all_eq_true, List.mem_filter, List.mem_map, decide_eq_true_eq,
    Function.comp_apply, BitVec.toNat_ofNat]
  rintro v ⟨⟨g, hg, rfl⟩, hv⟩
  have := bitsToUnsigned_lt_of_mem_groupsOf hg
  omega

end Sys2Proof

namespace Sys2Proof.Machine

/-! ### Field maps (R15, R117) -/

theorem rendered_length {v n : Nat} (hn : 0 < n) (h : v < 10 ^ n) : (rendered v n).length = n := by
  rw [rendered, padLeftDigits, padLeft_length, max_eq_left (dec_length_le hn h)]

theorem renderedWf_rendered {v w : Nat} (n : Nat) (h : v < 2 ^ w) : renderedWf (rendered v n) w n = true := by
  simp [renderedWf, rendered, h]

theorem renderedWf_dec {v w : Nat} (h : v < 2 ^ w) : renderedWf (dec v) w 1 = true := by
  have unpadded : rendered v 1 = dec v := padLeft_of_length_le _ _ _ (dec_length_pos v)
  rw [← unpadded]
  exact renderedWf_rendered 1 h

section
variable {p f cp : Nat} {e : PartitionEntry} (he : partitionEntry p = some e) (hf : f < 2 ^ 3) (hcp : cp < 2 ^ e.cpw)
include he hf hcp

theorem sgtin96Tag_wf {ir serial : Nat} (hir : ir < 2 ^ e.irw) (hs : serial < 2 ^ 38) :
    (sgtin96Tag p f cp ir serial).wf = true := by
  have twelveDigits : (rendered serial 12).length = 12 := rendered_length (by decide) (hs.trans (by decide))
  simp [DecodedTag.wf, sgtin96Tag, he, renderedWf_dec hf, renderedWf_rendered _ hcp, renderedWf_rendered _ hir,
    renderedWf_rendered _ hs, twelveDigits]

theorem sgtin198Tag_wf {ir : Nat} (hir : ir < 2 ^ e.irw) (rest : BitSeq) :
    (sgtin198Tag p f cp ir rest).wf = true := by
  have characters := decode7bit_all rest
  simp only [DecodedTag.wf, sgtin198Tag, he, renderedWf_dec hf, renderedWf_rendered _ hcp, renderedWf_rendered _ hir,
    Option.any_some, characters]
  rfl

theorem sscc96Tag_wf {sr : Nat} (hsr : sr < 2 ^ e.srw) (unallocated : BitSeq) :
    (sscc96Tag p f cp sr unallocated).wf = true := by
  simp [DecodedTag.wf, sscc96Tag, he, renderedWf_dec hf, renderedWf_rendered _ hcp, renderedWf_rendered _ hsr]

end

theorem readItemReference_lt {v : EncodingVariant} {b : BitSeq} {off w ir : Nat}
    (h : readItemReference v b off w = .ok ir) : ir < 2 ^ w := by
  rcases readItemReference_cases v b off w with ⟨_, hr⟩ | ⟨_, _, hr⟩ | ⟨_, _, hr⟩ <;> rw [hr] at h <;> cases h
  · exact Nat.two_pow_pos w
  · exact bitsToUnsigned_takeBits_lt b off w

/-- R111 to R114: the last step of a decode gives a sound field map from fields that fit. -/
theorem decodeRest_wf {v : EncodingVariant} {b : BitSeq} {e : PartitionEntry} {f p cp ir off : Nat} {t : DecodedTag}
    (he : partitionEntry p = some e) (hf : f < 2 ^ 3) (hcp : cp < 2 ^ e.cpw) (hir : ir < 2 ^ e.irw)
    (h : decodeRest v b e f p cp ir off = .ok t) : t.wf = true := by
  cases v with
  | sgtin96 =>
    simp only [decodeRest] at h
    split at h
    · cases h
    · next hl =>
      cases h
      have serial : (b.drop (off + e.irw)).length ≤ 38 := by rw [List.length_drop]; omega
      exact sgtin96Tag_wf he hf hcp hir (bitsToUnsigned_lt_of_length_le serial)
  | sgtin198 => cases h; exact sgtin198Tag_wf he hf hcp hir _
  | sscc96 =>
    rcases readNumber_cases b off e.srw with ⟨_, hr⟩ | ⟨_, hr⟩ <;>
      simp only [decodeRest, hr, bind, Except.bind] at h <;> cases h
    exact sscc96Tag_wf he hf hcp (bitsToUnsigned_takeBits_lt b off e.srw) _
  | reserved name => cases h

/-- R117: a field map that DEC gives is sound. -/
theorem decodeTag_wf {image : Str} {t : DecodedTag} (h : decodeTag image = .ok t) : t.wf = true := by
  obtain ⟨b, v, e, -, -, -, he, ir, hir, ht⟩ := decodeTag_ok h
  exact decodeRest_wf he (bitsToUnsigned_takeBits_lt b 8 3) (bitsToUnsigned_takeBits_lt b 14 e.cpw)
    (readItemReference_lt hir) ht

/-! ### Images (R98) -/

/-- R68: the widths after the partition fill 44 bits with an item reference, 58 with a serial reference. -/
theorem partitionEntry_widths {p : Nat} {e : PartitionEntry} (h : partitionEntry p = some e) :
    e.cpw + e.irw = 44 ∧ e.cpw + e.srw = 58 := by
  rcases partitionEntry_rows h with ⟨-, rfl⟩ | ⟨-, rfl⟩ | ⟨-, rfl⟩ | ⟨-, rfl⟩ | ⟨-, rfl⟩ | ⟨-, rfl⟩ | ⟨-, rfl⟩ <;>
    decide

theorem lt_eight_of_partitionEntry {p : Nat} {e : PartitionEntry} (h : partitionEntry p = some e) : p < 2 ^ 3 := by
  have inTable : ¬ 6 < p := fun hp => by simp [(partitionEntry_eq_none_iff p).2 hp] at h
  omega

section
variable {header : BitVec 8} {f p : Nat} {e : PartitionEntry} {body : BitSeq} (hf : f ≤ 7)
  (he : partitionEntry p = some e)

include hf he in
theorem imageHead_length : (imageHead header.toNat f p).length = 14 := by
  have filter : (toBits f 3).length = 3 := toBits_length (by omega)
  simp [imageHead, toBits_length header.isLt, filter, toBits_length (lt_eight_of_partitionEntry he)]

theorem bitsToHex_imageHead_take : (bitsToHex (imageHead header.toNat f p ++ body)).take 2 = byteHex header.toNat := by
  simp only [imageHead, List.append_assoc, Laws.bitsToHex_header]

include hf he

theorem imageWf_of_96_bits (hh : header = 48#8 ∨ header = 49#8) (hl : body.length = 82) :
    imageWf (bitsToHex (imageHead header.toNat f p ++ body)) = true := by
  have length : (bitsToHex (imageHead header.toNat f p ++ body)).length = 24 := by
    rw [bitsToHex_length, List.length_append, imageHead_length hf he, hl]
  have start : byteHex header.toNat = str "30" ∨ byteHex header.toNat = str "31" := by
    rcases hh with rfl | rfl <;> decide
  simp [imageWf, bitsToHex_all_isUpperHex, length, bitsToHex_imageHead_take, start, -List.all_eq_true]

theorem imageWf_of_198_bits (hh : header = 54#8) (hl : body.length = 184) :
    imageWf (bitsToHex (imageHead header.toNat f p ++ body)) = true := by
  have length : (bitsToHex (imageHead header.toNat f p ++ body)).length = 50 := by
    rw [bitsToHex_length, List.length_append, imageHead_length hf he, hl]
  have start : byteHex header.toNat = str "36" := by rw [hh]; decide
  simp [imageWf, bitsToHex_all_isUpperHex, length, bitsToHex_imageHead_take, start, -List.all_eq_true]

end

/-- R98 for ENC.SGTIN96. -/
theorem encodeSgtin96_imageWf {f p : Nat} {cp ir ser img : Str} (h : encodeSgtin96 f p cp ir ser = .ok img) :
    imageWf img = true := by
  obtain ⟨e, hf, he, -, hcp, -, hir, -, hser, rfl⟩ := encodeSgtin96_ok h
  have widths := (partitionEntry_widths he).1
  have serial : (toBits (parseDec ser) 38).length = 38 := toBits_length hser
  rw [List.append_assoc, List.append_assoc]
  refine imageWf_of_96_bits (header := 48#8) hf he (.inl rfl) ?_
  simp only [List.length_append, toBits_length hcp, toBits_length hir, serial]
  omega

/-- R98 for ENC.SGTIN198. -/
theorem encodeSgtin198_imageWf {f p : Nat} {cp ir ser img : Str} (h : encodeSgtin198 f p cp ir ser = .ok img) :
    imageWf img = true := by
  obtain ⟨e, sb, hf, he, -, hcp, -, hir, hlen, hsb, rfl⟩ := encodeSgtin198_ok h
  have widths := (partitionEntry_widths he).1
  have serial : (padRight sb 140).length = 140 := by
    rw [padRight_length, encode7bit_length hsb]
    omega
  rw [List.append_assoc, List.append_assoc]
  refine imageWf_of_198_bits (header := 54#8) hf he rfl ?_
  simp only [List.length_append, toBits_length hcp, toBits_length hir, serial]
  omega

/-- R98 for ENC.SSCC96. -/
theorem encodeSscc96_imageWf {f p : Nat} {cp ext ser img : Str} (h : encodeSscc96 f p cp ext ser = .ok img) :
    imageWf img = true := by
  obtain ⟨e, hf, he, -, hcp, -, -, hsr, rfl⟩ := encodeSscc96_ok h
  have widths := (partitionEntry_widths he).2
  rw [List.append_assoc, List.append_assoc]
  refine imageWf_of_96_bits (header := 49#8) hf he (.inr rfl) ?_
  simp only [List.length_append, toBits_length hcp, toBits_length hsr, zeros_length]
  omega

/-- R96: an image of RESER.SGTIN96 is one of ENC.SGTIN96, on operands read from the old image. -/
theorem reserialize_ok {image serial img : Str} (h : reserialize image serial = .ok img) :
    ∃ t ir, decodeTag image = .ok t ∧ t.itemReference = some ir ∧
      encodeSgtin96 (parseDec t.filter) t.partition t.companyPrefix ir serial = .ok img := by
  unfold reserialize at h
  cases ht : decodeTag image with
  | error x => simp [ht, bind, Except.bind] at h
  | ok t =>
    simp only [ht, bind, Except.bind] at h
    by_cases hh : t.header = 48
    · cases hi : t.itemReference with
      | none => simp [hh, hi, throw, throwThe, MonadExceptOf.throw] at h
      | some ir => exact ⟨t, ir, rfl, hi, by simpa [hh, hi, pure, Except.pure] using h⟩
    · simp [hh, throw, throwThe, MonadExceptOf.throw] at h

/-- R98 for RESER.SGTIN96. -/
theorem reserialize_imageWf {image serial img : Str} (h : reserialize image serial = .ok img) : imageWf img = true := by
  obtain ⟨t, ir, -, -, henc⟩ := reserialize_ok h
  exact encodeSgtin96_imageWf henc

/-! ### Responses (R14, R133, R137) -/

theorem ofError_wf (e : Error) : (Response.ofError e).wf = true := by cases e <;> rfl

theorem ofImage_wf {h : Str} (hh : imageWf h = true) : (Response.ofImage h).wf = true := hh

theorem ofTag_wf {t : DecodedTag} (ht : t.wf = true) : (Response.ofTag t).wf = true := ht

theorem ofDerived_wf (r : Option Str) : (Response.ofDerived r).wf = true := by cases r <;> rfl

theorem ofDigit_wf {d : Nat} (hd : d ≤ 9) : (Response.ofDigit d).wf = true := decide_eq_true hd

theorem ofValid_wf (v : Bool) : (Response.ofValid v).wf = true := rfl

/-- R76: the digit of CHK.DIGIT is one decimal digit. -/
theorem payloadDigit_le {d : Str} {v : Nat} (h : payloadDigit d = .ok v) : v ≤ 9 := by
  unfold payloadDigit at h
  split at h
  · rcases weightedChecksum_cases d with ⟨w, hw, -, -, hd⟩ | ⟨-, hd⟩ <;> rw [hd] at h <;> cases h
    exact hw
  · cases h

/-- `t` is `s` with a sound response on the port: what every meaning run in `s` has to leave. -/
def SoundAnswer (s t : State) : Prop := ∃ r : Response, r.wf = true ∧ t = s.respond r

theorem raise_sound {e : Error} {s t : State} (h : raise e s = .next t) : SoundAnswer s t :=
  ⟨_, ofError_wf e, by simpa using h.symm⟩

theorem answerTag_sound {tag : DecodedTag} {s t : State} (ht : tag.wf = true) (h : answerTag tag s = .next t) :
    SoundAnswer s t :=
  ⟨_, ofTag_wf ht, by simpa using h.symm⟩

theorem answerReserved_sound {name : ReservedName} {p : BitVec 3} {rest : BitSeq} {s t : State}
    (h : answerReserved name p rest s = .next t) : SoundAnswer s t := by
  rcases answerReserved_next h with ht | ⟨-, ht⟩
  · exact ⟨_, ofError_wf _, ht⟩
  · exact ⟨_, ofError_wf _, ht⟩

/-- A rule whose value makes a sound response answers soundly, since every error does. -/
theorem finish_map_sound {α : Type} {c : Checked α} {make : α → Response} {s t : State}
    (hc : ∀ a, c = .ok a → (make a).wf = true) (h : finish (c.map make) s = .next t) : SoundAnswer s t := by
  rcases c with x | a
  · rcases finish_next h with ⟨q, hq, -⟩ | ⟨e, -, ht⟩
    · cases hq
    · exact ⟨_, ofError_wf e, ht⟩
  · exact ⟨_, hc a rfl, by simpa [Except.map] using h.symm⟩

theorem answerImage_sound {c : Checked Str} {s t : State} (hc : ∀ img, c = .ok img → imageWf img = true)
    (h : answerImage c s = .next t) : SoundAnswer s t :=
  finish_map_sound (fun img himg => ofImage_wf (hc img himg)) h

theorem execDec_sound {image : Str} {s t : State} (h : execDec image s = .next t) : SoundAnswer s t :=
  finish_map_sound (fun _ htag => ofTag_wf (decodeTag_wf htag)) h

theorem answerDerived_sound {derive : DecodedTag → Checked (Option Str)} {image : Str} {s t : State}
    (h : answerDerived derive image s = .next t) : SoundAnswer s t :=
  finish_map_sound (fun r _ => ofDerived_wf r) h

theorem execChkDigit_sound {d : Str} {s t : State} (h : execChkDigit d s = .next t) : SoundAnswer s t :=
  finish_map_sound (fun _ hv => ofDigit_wf (payloadDigit_le hv)) h

theorem execChkValid_sound {d : Str} {s t : State} (h : execChkValid d s = .next t) : SoundAnswer s t :=
  finish_map_sound (fun v _ => ofValid_wf v) h

theorem execPartition7_sound {header : BitVec 8} {f : BitVec 3} {rest : BitSeq} {s t : State}
    (h : execPartition7 header f rest s = .next t) : SoundAnswer s t := by
  unfold execPartition7 at h
  split at h
  · exact raise_sound h
  · exact raise_sound h

/-- Every instruction answers soundly, whether some presented word decodes to it or not: the widths of its fields are
all that its field map needs. -/
theorem exec_sound {i : Instr} {s t : State} (h : exec i s = .next t) : SoundAnswer s t := by
  cases i
  case encSgtin96 => exact answerImage_sound (fun _ => encodeSgtin96_imageWf) h
  case encSgtin198 => exact answerImage_sound (fun _ => encodeSgtin198_imageWf) h
  case encSscc96 => exact answerImage_sound (fun _ => encodeSscc96_imageWf) h
  case reserSgtin96 => exact answerImage_sound (fun _ => reserialize_imageWf) h
  case dec => exact execDec_sound h
  case decGtin | decSscc | decSerial => exact answerDerived_sound h
  case chkDigit => exact execChkDigit_sound h
  case chkValid => exact execChkValid_sound h
  case sgtin96P0 f cp ir ser | sgtin96P1 f cp ir ser | sgtin96P2 f cp ir ser | sgtin96P3 f cp ir ser |
      sgtin96P4 f cp ir ser | sgtin96P5 f cp ir ser | sgtin96P6 f cp ir ser =>
    exact answerTag_sound (sgtin96Tag_wf rfl f.isLt cp.isLt ir.isLt ser.isLt) h
  case sgtin198P0 f cp ir rest | sgtin198P1 f cp ir rest | sgtin198P2 f cp ir rest | sgtin198P3 f cp ir rest |
      sgtin198P4 f cp ir rest | sgtin198P5 f cp ir rest | sgtin198P6 f cp ir rest =>
    exact answerTag_sound (sgtin198Tag_wf rfl f.isLt cp.isLt ir.isLt rest) h
  case sscc96P0 f cp sr un | sscc96P1 f cp sr un | sscc96P2 f cp sr un | sscc96P3 f cp sr un |
      sscc96P4 f cp sr un | sscc96P5 f cp sr un | sscc96P6 f cp sr un =>
    exact answerTag_sound (sscc96Tag_wf rfl f.isLt cp.isLt sr.isLt un) h
  case reservedDod64 | reservedDod96 | reservedGln96 | reservedGrai96 | reservedGiai96 | reservedGid96 =>
    exact answerReserved_sound h
  case unsupported => exact raise_sound h
  case partition7 header f rest => exact execPartition7_sound (f := f) (rest := rest) h

/-- A presented word is answered soundly, an instruction or none. -/
theorem answer_sound {w : Presented} {s t : State} (h : answer w s = .next t) : SoundAnswer s t := by
  unfold answer at h
  split at h
  · exact exec_sound h
  · next e _ =>
    cases e with
    | malformedHex => exact raise_sound h
    | imageTooShort | sgtin96LengthNot96 | reservedSelect => cases h

/-- Recording a sound response over a sound trace keeps the invariant. -/
theorem record_respond_inv {s : State} {r : Response} (w : Presented) (hs : ∀ t ∈ s.history, t.response.wf = true)
    (hr : r.wf = true) : ((s.respond r).record w).Inv := by
  refine ⟨?_, ?_⟩
  · rintro q hq
    cases hq
    exact hr
  · intro t ht
    rw [record_respond_history, List.mem_append, List.mem_singleton] at ht
    rcases ht with ht | rfl
    · exact hs t ht
    · exact hr

/-- Settles O7: the step either is idle or records one sound answer. -/
theorem soundResponsesAreInvariant : Obligations.SoundResponsesAreInvariant := by
  intro s t hs h
  rcases step_next h with ⟨-, rfl⟩ | ⟨w, rest, u, -, hu, rfl⟩
  · exact hs
  · obtain ⟨r, hr, rfl⟩ := answer_sound hu
    exact record_respond_inv w hs.2 hr

/-- Settles O8: after reset there is no response to be unsound. -/
theorem soundResponsesHoldAtReset : Obligations.SoundResponsesHoldAtReset :=
  ⟨fun r hr => by simp at hr, fun t ht => by simp at ht⟩

/-! ### Replies do not depend on the state (R10, R18) -/

theorem finish_reply_eq (c : Checked Response) (s s' : State) : reply (finish c s) = reply (finish c s') := by
  rcases c with (e | x) | r <;> rfl

theorem answerReserved_reply_eq (name : ReservedName) (p : BitVec 3) (rest : BitSeq) (s s' : State) :
    reply (answerReserved name p rest s) = reply (answerReserved name p rest s') := by
  unfold answerReserved
  split
  · rfl
  · split <;> rfl

theorem execPartition7_reply_eq (header : BitVec 8) (f : BitVec 3) (rest : BitSeq) (s s' : State) :
    reply (execPartition7 header f rest s) = reply (execPartition7 header f rest s') := by
  unfold execPartition7
  split <;> rfl

/-- R10: what an instruction answers, refusals included, does not depend on the state. -/
theorem exec_reply_eq (i : Instr) (s s' : State) : reply (exec i s) = reply (exec i s') := by
  cases i
  case encSgtin96 | encSgtin198 | encSscc96 | reserSgtin96 | dec | decGtin | decSscc | decSerial | chkDigit | chkValid =>
    exact finish_reply_eq _ s s'
  case reservedDod64 | reservedDod96 | reservedGln96 | reservedGrai96 | reservedGiai96 | reservedGid96 =>
    exact answerReserved_reply_eq _ _ _ s s'
  case partition7 header f rest => exact execPartition7_reply_eq header f rest s s'
  all_goals rfl

theorem answer_reply_eq (w : Presented) (s s' : State) : reply (answer w s) = reply (answer w s') := by
  unfold answer
  split
  · exact exec_reply_eq _ s s'
  · next e _ => cases e <;> rfl

@[simp] theorem record_rsp (s : State) (w : Presented) : (s.record w).rsp = s.rsp := by
  unfold State.record
  split <;> simp_all

/-- The trace hides nothing from the host. -/
@[simp] theorem reply_recorded (w : Presented) (a : Answer) : reply (recorded w a) = reply a := by
  cases a with
  | next t => simp [recorded, reply]
  | fault f => cases f
  | refused x => rfl

/-- The reply to the oldest request, in the terms of any state. -/
theorem reply_step {s : State} {w : Presented} {rest : List Presented} (h : s.requests = w :: rest) (s' : State) :
    reply (step s) = reply (answer w s') := by
  rw [step_of_requests h, reply_recorded, answer_reply_eq]

/-- Two states with the same oldest request give it the same reply. -/
theorem reply_step_eq {s s' : State} {w : Presented} {rest rest' : List Presented} (h : s.requests = w :: rest)
    (h' : s'.requests = w :: rest') : reply (step s) = reply (step s') := by
  rw [reply_step h State.reset, reply_step h' State.reset]

/-- Settles O4: the reply is the one the word gets in the state after reset. -/
theorem responseIsFunctionOfRequest : Obligations.ResponseIsFunctionOfRequest :=
  fun w => ⟨reply (answer w State.reset), fun _ _ h => reply_step h State.reset⟩

/-- Settles O3, each clause about a reply by `reply_step_eq`. -/
theorem resetLeavesBlockIdle : Obligations.ResetLeavesBlockIdle := by
  refine ⟨rfl, rfl, fun s w rest => reply_step_eq rfl rfl, fun s => ⟨rfl, rfl, rfl, fun hs => ?_⟩,
    fun s w rest h => ⟨rfl, by simp [h], rfl, fun hrest => ?_⟩⟩
  · obtain ⟨w, rest, h⟩ := List.exists_cons_of_ne_nil hs
    exact reply_step_eq (s := s.applyReset) h h
  · obtain ⟨v, later, rfl⟩ := List.exists_cons_of_ne_nil hrest
    exact reply_step_eq (rest := later) (by simp [h]) rfl

/-! ### Frame, step and decoding of operations (R12, R13, R39) -/

/-- The next state of an instruction is the old one with a response on the port. -/
theorem exec_next_eq_respond {i : Instr} {s t : State} (h : exec i s = .next t) : ∃ r, t = s.respond r := by
  obtain ⟨r, hr⟩ := exec_response h
  have again : exec i s = .next (s.respond r) := exec_of_reply (s' := s) (by rw [h, reply, hr]) s
  exact ⟨r, by rw [h] at again; exact Host.Outcome.next.inj again⟩

/-- Settles O6: the old state with a response on the port has the old queue and trace. -/
theorem execChangesOnlyTheResponsePort : Obligations.ExecChangesOnlyTheResponsePort := by
  intro i s t h
  obtain ⟨r, rfl⟩ := exec_next_eq_respond h
  exact ⟨rfl, rfl, r, rfl, rfl⟩

/-- Settles O1: the step records the answer to the oldest word, and that answer is `exec` of the word's instruction. -/
theorem stepRunsDecodedInstruction : Obligations.StepRunsDecodedInstruction := by
  intro s w rest i hs hw
  have hanswer : answer w { s with requests := rest } = exec i { s with requests := rest } := by simp only [answer, hw]
  rw [step_of_requests hs, hanswer]
  cases exec i { s with requests := rest } <;> rfl

/-- Settles O13: the row of each select code in `decodeCommand` reads the named operands only. -/
theorem unnamedOperandsAreIgnored : Obligations.UnnamedOperandsAreIgnored := by
  intro r q hop
  have select (n : Nat) (h : r.op.toNat = n) : q.op.toNat = n := hop ▸ h
  simp only [List.mem_cons, List.not_mem_nil, or_false, decode, decodeCommand]
  refine ⟨?_, ?_, ?_, ?_, ?_⟩
  · rintro (h | h) hf hp hcp hir hser <;> simp only [h, select _ h, hf, hp, hcp, hir, hser]
  · intro h hf hp hcp hext hser
    simp only [h, select _ h, hf, hp, hcp, hext, hser]
  · intro h himage hser
    simp only [h, select _ h, himage, hser]
  · rintro (h | h | h | h) himage <;> simp only [h, select _ h, himage]
  · rintro (h | h) hdigits <;> simp only [h, select _ h, hdigits]

end Sys2Proof.Machine

/-! ### A run is the list of its transactions (R12, R27) -/

namespace Sys2Proof.Machine

/-- R10: every state gives the transaction's request the transaction's response. -/
def Transaction.Answered (x : Transaction) : Prop := ∀ s : State, answer x.request s = .next (s.respond x.response)

/-- The step on the request of an answered transaction takes the request and appends the transaction to the trace. -/
theorem step_of_answered {x : Transaction} (hx : x.Answered) {s : State} {rest : List Presented}
    (h : s.requests = x.request :: rest) :
    step s = .next { requests := rest, rsp := some x.response, history := s.history ++ [x] } := by
  rw [step_of_requests h, hx]
  rfl

/-- A step that does not stop has answered its request. -/
theorem answered_of_step {s t : State} {w : Presented} {rest : List Presented} (h : s.requests = w :: rest)
    (hstep : step s = .next t) : ∃ r, Transaction.Answered ⟨w, r⟩ := by
  rw [step_of_requests h] at hstep
  obtain ⟨u, hu, -⟩ := recorded_next hstep
  exact answer_response hu

/-- A run over the requests of answered transactions completes, and its trace is those transactions. -/
theorem run_of_answered {xs : List Transaction} (hxs : ∀ x ∈ xs, x.Answered) {s : State}
    (hs : s.requests = xs.map Transaction.request) :
    ∃ t, core.run xs.length s = .next t ∧ t.requests = [] ∧ t.history = s.history ++ xs := by
  induction xs generalizing s with
  | nil => exact ⟨s, rfl, hs, (List.append_nil _).symm⟩
  | cons x xs ih =>
    obtain ⟨hx, hrest⟩ := List.forall_mem_cons.1 hxs
    obtain ⟨t, hrun, hreq, hhist⟩ := ih hrest
      (s := { requests := xs.map Transaction.request, rsp := some x.response, history := s.history ++ [x] }) rfl
    refine ⟨t, ?_, hreq, by simpa using hhist⟩
    rw [List.length_cons, run_succ _ (step_of_answered hx hs), hrun]

/-- The requests of a run that completes are those of answered transactions. -/
theorem answered_of_run {ws : List Presented} {s t : State} (hs : s.requests = ws)
    (hrun : core.run ws.length s = .next t) :
    ∃ xs : List Transaction, xs.map Transaction.request = ws ∧ ∀ x ∈ xs, x.Answered := by
  induction ws generalizing s with
  | nil => exact ⟨[], rfl, by simp⟩
  | cons w ws ih =>
    obtain ⟨u, hstep, hrest⟩ := run_succ_next hrun
    obtain ⟨r, hr⟩ := answered_of_step hs hstep
    have hu : u.requests = ws := by
      rw [step_of_answered hr hs] at hstep
      cases hstep
      rfl
    obtain ⟨xs, hws, hxs⟩ := ih hu hrest
    exact ⟨⟨w, r⟩ :: xs, by rw [List.map_cons, hws], List.forall_mem_cons.2 ⟨hr, hxs⟩⟩

/-- Settles O5: the answered transactions of the one run, rearranged, are those of the other. -/
theorem orderOfRequestsIsImmaterial : Obligations.OrderOfRequestsIsImmaterial := by
  rintro ws ws' s s' t hperm hs hs' hhist hhist' hrun
  obtain ⟨xs, rfl, hxs⟩ := answered_of_run hs hrun
  obtain ⟨xs', rfl, hperm'⟩ : ∃ xs' : List Transaction, ws' = xs'.map Transaction.request ∧ xs'.Perm xs :=
    (congrFun (congrFun (List.eq_map_comp_perm Transaction.request) ws') xs).mpr hperm.symm
  obtain ⟨t₁, hrun₁, hreq₁, htrace₁⟩ := run_of_answered hxs hs
  obtain ⟨t', hrun', hreq', htrace'⟩ := run_of_answered (fun x hx => hxs x (hperm'.subset hx)) hs'
  rw [hhist, List.nil_append] at htrace₁
  rw [hhist', List.nil_append] at htrace'
  rw [List.length_map, hrun₁] at hrun
  cases hrun
  refine ⟨hreq₁, by rw [htrace₁], t', by rw [List.length_map, hrun'], hreq', by rw [htrace'], ?_⟩
  rw [htrace', htrace₁]
  exact hperm'

/-! ### The image rows' field maps (R26, R111, R113, R114, R117) -/

/-- Settles O55: each row answers with `sgtin96Tag` of its partition, whose digit counts are `12 - p` and `1 + p`. -/
theorem sgtin96RowsGiveTheirMaps : Obligations.Sgtin96RowsGiveTheirMaps := by
  intro s f ser
  refine ⟨?_, ?_, ?_, ?_, ?_, ?_, ?_⟩ <;> exact fun _ _ => answerTag_eq (sgtin96Tag _ _ _ _ _) s

/-- Settles O56: each row answers with `sgtin198Tag` of its partition. -/
theorem sgtin198RowsGiveTheirMaps : Obligations.Sgtin198RowsGiveTheirMaps := by
  intro s f rest
  refine ⟨?_, ?_, ?_, ?_, ?_, ?_, ?_⟩ <;> exact fun _ _ => answerTag_eq (sgtin198Tag _ _ _ _ _) s

/-- Settles O57: each row answers with `sscc96Tag` of its partition, whose digit counts are `12 - p` and `5 + p`. -/
theorem sscc96RowsGiveTheirMaps : Obligations.Sscc96RowsGiveTheirMaps := by
  intro s f rest
  refine ⟨?_, ?_, ?_, ?_, ?_, ?_, ?_⟩ <;> exact fun _ _ => answerTag_eq (sscc96Tag _ _ _ _ _) s

end Sys2Proof.Machine

/-! ### Fields put back in their place (R21, R22, R55) -/

namespace Sys2Proof

/-- The binary digits of a number that fits `n` bits, asked for in more, are zeros and those `n` bits. -/
theorem lowBits_add {n v : Nat} (k : Nat) (h : v < 2 ^ n) :
    lowBits (k + n) v = List.replicate k false ++ lowBits n v := by
  induction n generalizing v with
  | zero =>
    obtain rfl : v = 0 := by simpa using h
    induction k with
    | zero => rfl
    | succ k ih => simpa [lowBits, List.replicate_succ'] using ih
  | succ n ih =>
    have quotient : v / 2 < 2 ^ n := by rw [pow_succ] at h; omega
    rw [← Nat.add_assoc, lowBits, ih quotient, lowBits, List.append_assoc]

/-- R55: a number that fits its field is packed as its last `w` binary digits. -/
theorem toBits_eq_lowBits {v w : Nat} (h : v < 2 ^ w) : toBits v w = lowBits w v := by
  have fits : bitlen v ≤ w := (Machine.bitlen_le_iff v w).2 h
  have shortest : v < 2 ^ bitlen v := (Machine.bitlen_le_iff v _).1 le_rfl
  rw [toBits, binary, padLeft, lowBits_length, ← lowBits_add _ shortest, Nat.sub_add_cancel fits]

/-- R51: the binary digits of a bit sequence's value are its bits. -/
theorem lowBits_bitsToUnsigned (b : BitSeq) : lowBits b.length (bitsToUnsigned b) = b := by
  induction b using List.reverseRecOn with
  | nil => rfl
  | append_singleton b x ih =>
    have value : bitsToUnsigned (b ++ [x]) = 2 * bitsToUnsigned b + x.toNat := by simp [bitsToUnsigned]
    have bit : x.toNat < 2 := Bool.toNat_lt x
    have front : (2 * bitsToUnsigned b + x.toNat) / 2 = bitsToUnsigned b := by omega
    have last : ((2 * bitsToUnsigned b + x.toNat) % 2 == 1) = x := by cases x <;> simp
    rw [List.length_append, List.length_singleton, lowBits, value, front, last, ih]

/-- R51, R55: packing the value of a bit sequence in its own length gives it back. -/
theorem toBits_bitsToUnsigned (b : BitSeq) : toBits (bitsToUnsigned b) b.length = b := by
  rw [toBits_eq_lowBits (bitsToUnsigned_lt b), lowBits_bitsToUnsigned]

/-- R21: a field of the decoder holds the number in its bits. -/
theorem field_toNat (b : BitSeq) (off w : Nat) : (field b off w).toNat = bitsToUnsigned (takeBits b off w) := by
  rw [field, BitVec.toNat_ofNat, Nat.mod_eq_of_lt (bitsToUnsigned_takeBits_lt b off w)]

/-- R22, R55: a field packed again, and the bits behind it, are the bits from its offset on. -/
theorem toBits_field_append_drop {b : BitSeq} {off w : Nat} (h : off + w ≤ b.length) :
    toBits (field b off w).toNat w ++ b.drop (off + w) = b.drop off := by
  have packed : toBits (bitsToUnsigned (takeBits b off w)) w = takeBits b off w := by
    simpa only [takeBits_length b off w h] using toBits_bitsToUnsigned (takeBits b off w)
  rw [field_toNat, packed, takeBits, ← List.drop_drop, List.take_append_drop]

/-- R20: an image string has 4 bits a character. -/
theorem hexToBits_length {h : Str} {b : BitSeq} (hb : hexToBits h = some b) : b.length = 4 * h.length := by
  induction h generalizing b with
  | nil => cases hb; rfl
  | cons c cs ih =>
    rw [hexToBits] at hb
    split at hb
    · next v d _ hd =>
      cases hb
      rw [List.length_append, nibble_length, ih hd, List.length_cons]
      omega
    · cases hb

/-- R20: a row's fixed fields and the rest behind them are whole nibbles together. -/
theorem wholeNibbles_add_length_drop {h : Str} {b : BitSeq} (hb : hexToBits h = some b) {n : Nat}
    (hn : n ≤ b.length) : wholeNibbles (n + (b.drop n).length) = true := by
  rw [List.length_drop, Nat.add_sub_cancel' hn, hexToBits_length hb]
  simp [wholeNibbles]

/-! ### The image rows hold every bit of the image (R26, R30, R31) -/

/-- R31: the header byte of a variant. -/
def headerByte : EncodingVariant → Nat
  | .sgtin96 => 48
  | .sgtin198 => 54
  | .sscc96 => 49
  | .reserved .dod64 => 206
  | .reserved .dod96 => 207
  | .reserved .gln96 => 50
  | .reserved .grai96 => 51
  | .reserved .giai96 => 52
  | .reserved .gid96 => 53

/-- R31: only a variant's own byte leads to it. -/
theorem eq_headerByte_of_headerTable {n : Nat} {v : EncodingVariant} (h : headerTable n = some v) :
    n = headerByte v := by
  unfold headerTable at h
  split at h <;> cases h <;> rfl

/-- R30: an image's header, filter and partition, packed again in front of its rest, are the image. -/
theorem headBits_fields {b : BitSeq} {header : Nat} (hh : (field b 0 8).toNat = header) (hl : 14 ≤ b.length) :
    headBits header (field b 8 3) (field b 11 3) (b.drop 14) = b := by
  rw [← hh, headBits, toBits_field_append_drop (off := 11) (w := 3) hl,
    toBits_field_append_drop (off := 8) (w := 3) (by omega), toBits_field_append_drop (off := 0) (by omega),
    List.drop_zero]

/-- R26: the same of a row with a company field of `c` bits and a reference of `r`. -/
theorem sgtinBits_fields {b : BitSeq} {header p c r : Nat} (hh : (field b 0 8).toNat = header)
    (hp : (field b 11 3).toNat = p) (hl : 14 + c + r ≤ b.length) :
    sgtinBits header p (field b 8 3) (field b 14 c) (field b (14 + c) r) (b.drop (14 + c + r)) = b := by
  rw [← hp, sgtinBits, toBits_field_append_drop hl, toBits_field_append_drop (by omega)]
  exact headBits_fields hh (by omega)

section
variable {b : BitSeq} {p : Nat} (hp : (field b 11 3).toNat = p) (hp6 : p ≤ 6)
include hp hp6

/-- R111: an SGTIN-96 row holds its image; the serial is the last 38 of the 96 bits. -/
theorem decodeSgtin96_keeps_image (hh : (field b 0 8).toNat = 48) (hl : b.length = 96) :
    (decodeSgtin96 b p).wf = true ∧ imageBits (decodeSgtin96 b p) = b := by
  have serial : toBits (field b 58 38).toNat 38 = b.drop 58 := by
    rw [← toBits_field_append_drop (off := 58) (w := 38) hl.ge, List.drop_of_length_le hl.le, List.append_nil]
  have fields {c r : Nat} (hcr : 14 + c + r = 58) : sgtinBits 48 p (field b 8 3) (field b 14 c) (field b (14 + c) r)
      (toBits (field b 58 38).toNat 38) = b := by
    rw [serial, ← hcr]
    exact sgtinBits_fields hh hp (by omega)
  interval_cases p <;> exact ⟨rfl, fields rfl⟩

/-- R114: an SGTIN-198 row holds its image. -/
theorem decodeSgtin198_keeps_image {h : Str} (hb : hexToBits h = some b) (hh : (field b 0 8).toNat = 54)
    (hl : 58 ≤ b.length) : (decodeSgtin198 b p).wf = true ∧ imageBits (decodeSgtin198 b p) = b := by
  interval_cases p <;> exact ⟨wholeNibbles_add_length_drop hb hl, sgtinBits_fields hh hp hl⟩

/-- R113: an SSCC-96 row holds its image. -/
theorem decodeSscc96_keeps_image {h : Str} (hb : hexToBits h = some b) (hh : (field b 0 8).toNat = 49)
    (hl : 72 ≤ b.length) : (decodeSscc96 b p).wf = true ∧ imageBits (decodeSscc96 b p) = b := by
  interval_cases p <;> exact ⟨wholeNibbles_add_length_drop hb hl, sgtinBits_fields hh hp hl⟩

end

/-- R112: a reserved row holds its image. -/
theorem decodeReserved_keeps_image {h : Str} {b : BitSeq} {name : ReservedName} (hb : hexToBits h = some b)
    (hh : (field b 0 8).toNat = headerByte (.reserved name)) (hp : (field b 11 3).toNat ≤ 6)
    (hl : 58 ≤ b.length) : (decodeReserved name b).wf = true ∧ imageBits (decodeReserved name b) = b := by
  have legal : field b 11 3 ≠ 7#3 := fun seven => by simp [seven] at hp
  have wf : reservedWf (field b 11 3) (b.drop 14) = true := by
    have long : 44 ≤ (b.drop 14).length := by rw [List.length_drop]; omega
    simp [reservedWf, legal, long, wholeNibbles_add_length_drop hb (n := 14) (by omega), -List.length_drop]
  cases name <;> exact ⟨wf, headBits_fields hh (by omega)⟩

/-- The rows an image's bits can be read as, each with the checks that lead to it (R106, R108, R111 to R114, R116). -/
inductive ImageRow (b : BitSeq) : Instr → Prop
  | unsupported (hl : 8 ≤ b.length) (hv : headerTable (field b 0 8).toNat = none) :
      ImageRow b (.unsupported (field b 0 8) (b.drop 8))
  | partition7 {v : EncodingVariant} (hl : 14 ≤ b.length) (hv : headerTable (field b 0 8).toNat = some v)
      (hp : (field b 11 3).toNat = 7) : ImageRow b (.partition7 (field b 0 8) (field b 8 3) (b.drop 14))
  | sgtin96 (hl : b.length = 96) (hv : headerTable (field b 0 8).toNat = some .sgtin96)
      (hp : (field b 11 3).toNat ≤ 6) : ImageRow b (decodeSgtin96 b (field b 11 3).toNat)
  | sgtin198 (hl : 58 ≤ b.length) (hv : headerTable (field b 0 8).toNat = some .sgtin198)
      (hp : (field b 11 3).toNat ≤ 6) : ImageRow b (decodeSgtin198 b (field b 11 3).toNat)
  | sscc96 (hl : 72 ≤ b.length) (hv : headerTable (field b 0 8).toNat = some .sscc96)
      (hp : (field b 11 3).toNat ≤ 6) : ImageRow b (decodeSscc96 b (field b 11 3).toNat)
  | reserved {name : ReservedName} (hl : 58 ≤ b.length) (hv : headerTable (field b 0 8).toNat = some (.reserved name))
      (hp : (field b 11 3).toNat ≤ 6) : ImageRow b (decodeReserved name b)

/-- Everything the decoder of an image's bits can read. -/
theorem imageRow_of_decodeImageBits {b : BitSeq} {i : Instr} (h : decodeImageBits b = .ok i) : ImageRow b i := by
  unfold decodeImageBits at h
  split at h
  · cases h
  · next hl8 =>
    split at h
    · next hv => cases h; exact .unsupported (by omega) hv
    · next v hv =>
      split at h
      · cases h
      · next hl14 =>
        split at h
        · next hp => cases h; exact .partition7 (by omega) hv hp
        · next hp7 =>
          have hp : (field b 11 3).toNat ≤ 6 := by have := (field b 11 3).isLt; omega
          split at h
          · cases h
          · next hl58 =>
            cases v with
            | sgtin96 =>
              simp only at h
              split at h
              · next hl => cases h; exact .sgtin96 hl hv hp
              · cases h
            | sgtin198 => cases h; exact .sgtin198 (by omega) hv hp
            | sscc96 =>
              simp only at h
              split at h
              · cases h
              · next hl72 => cases h; exact .sscc96 (by omega) hv hp
            | reserved name => cases h; exact .reserved (by omega) hv hp

/-- Every row of an image presented as a string is well formed and holds the image. -/
theorem ImageRow.keeps_image {h : Str} {b : BitSeq} {i : Instr} (hb : hexToBits h = some b) (hrow : ImageRow b i) :
    i.wf = true ∧ imageBits i = b := by
  cases hrow with
  | unsupported hl hv =>
    refine ⟨?_, toBits_field_append_drop (off := 0) (by omega)⟩
    simp only [Instr.wf, hv, wholeNibbles_add_length_drop hb hl, Option.isNone_none, Bool.and_self]
  | partition7 hl hv hp =>
    have seven : field b 11 3 = 7#3 := BitVec.eq_of_toNat_eq hp
    refine ⟨?_, ?_⟩
    · simp only [Instr.wf, hv, wholeNibbles_add_length_drop hb hl, Option.isSome_some, Bool.and_self]
    · rw [imageBits, ← seven]
      exact headBits_fields rfl hl
  | sgtin96 hl hv hp => exact decodeSgtin96_keeps_image rfl hp (eq_headerByte_of_headerTable hv) hl
  | sgtin198 hl hv hp => exact decodeSgtin198_keeps_image rfl hp hb (eq_headerByte_of_headerTable hv) hl
  | sscc96 hl hv hp => exact decodeSscc96_keeps_image rfl hp hb (eq_headerByte_of_headerTable hv) hl
  | reserved hl hv hp => exact decodeReserved_keeps_image hb (eq_headerByte_of_headerTable hv) hp hl

/-- R36, R50: an image whose characters convert is read from its bits. -/
theorem decode_image_of_hexToBits {h : Str} {b : BitSeq} (hb : hexToBits h = some b) :
    decode (.image h) = decodeImageBits b := by
  simp only [decode, decodeImage, hb]

/-- Settles O11: the image is read as one of its rows, and every row holds it. -/
theorem decodeKeepsEveryImageBit : Obligations.DecodeKeepsEveryImageBit := by
  intro h b i hb hi
  rw [decode_image_of_hexToBits hb] at hi
  exact (imageRow_of_decodeImageBits hi).keeps_image hb

end Sys2Proof

/-! ### Hexadecimal strings and fields read back from what was packed (R21, R50, R52, R55) -/

namespace Sys2Proof

/-- R55: the last `w` binary digits of a number that fits them have its value. -/
theorem bitsToUnsigned_lowBits {w v : Nat} (h : v < 2 ^ w) : bitsToUnsigned (lowBits w v) = v := by
  induction w generalizing v with
  | zero => rw [Nat.lt_one_iff.1 h]; rfl
  | succ w ih =>
    have quotient : v / 2 < 2 ^ w := by rw [pow_succ] at h; omega
    have last : bitsToUnsigned [v % 2 == 1] = v % 2 := by
      rcases Nat.mod_two_eq_zero_or_one v with hv | hv <;> rw [hv] <;> rfl
    rw [lowBits, bitsToUnsigned_append, ih quotient, last, List.length_singleton]
    omega

/-- R55: a number packed in a field it fits is the field's value. -/
theorem bitsToUnsigned_toBits {v w : Nat} (h : v < 2 ^ w) : bitsToUnsigned (toBits v w) = v := by
  rw [toBits_eq_lowBits h, bitsToUnsigned_lowBits h]

/-- R50, R60: the character of a value is read back as the value. -/
theorem hexDigit?_hexChar {v : Nat} (h : v < 16) : hexDigit? (hexChar v) = some v := by
  interval_cases v <;> rfl

/-- R20, R51: the four bits of a group's value are the group. -/
theorem nibble_bitsToUnsigned {g : BitSeq} (h : g.length = 4) : nibble (bitsToUnsigned g) = g := by
  obtain ⟨a, b, c, d, rfl⟩ := List.length_eq_four.1 h
  revert a b c d
  decide

/-- R50, R52: an image of whole nibbles comes back from its hexadecimal string. -/
theorem hexToBits_bitsToHex {b : BitSeq} (h : wholeNibbles b.length = true) : hexToBits (bitsToHex b) = some b := by
  obtain ⟨n, hn⟩ : ∃ n, b.length = 4 * n := Nat.dvd_of_mod_eq_zero (by simpa [wholeNibbles] using h)
  clear h
  induction n generalizing b with
  | zero => rw [List.eq_nil_of_length_eq_zero hn]; rfl
  | succ n ih =>
    have group : (b.take 4).length = 4 := by rw [List.length_take]; omega
    have value : bitsToUnsigned (b.take 4) < 16 := bitsToUnsigned_lt_of_length_le group.le
    have rest : hexToBits (bitsToHex (b.drop 4)) = some (b.drop 4) := ih (by rw [List.length_drop]; omega)
    calc hexToBits (bitsToHex b)
        = hexToBits (hexChar (bitsToUnsigned (b.take 4)) :: bitsToHex (b.drop 4)) := by
          rw [← bitsToHex_append _ _ group, List.take_append_drop]
      _ = some (nibble (bitsToUnsigned (b.take 4)) ++ b.drop 4) := hexToBits_cons (hexDigit?_hexChar value) rest
      _ = some b := by rw [nibble_bitsToUnsigned group, List.take_append_drop]

/-- R21, R55: the first field of an image is read back as it was packed. -/
theorem field_toBits_append {w : Nat} (v : BitVec w) (rest : BitSeq) : field (toBits v.toNat w ++ rest) 0 w = v := by
  have first : takeBits (toBits v.toNat w ++ rest) 0 w = toBits v.toNat w := by
    simpa only [toBits_length v.isLt] using takeBits_append_left (toBits v.toNat w) rest
  rw [field, first, bitsToUnsigned_toBits v.isLt, BitVec.ofNat_toNat, BitVec.setWidth_eq]

/-- R23: a field that starts after `a` is a field of what follows it. -/
theorem field_append_right {n : Nat} {a : BitSeq} (ha : a.length = n) (b : BitSeq) (off w : Nat) :
    field (a ++ b) (n + off) w = field b off w := by
  rw [field, ← ha, takeBits_append_right, field]

/-! ### The fields of a packed image (R23, R30, R33, R34) -/

section
variable (header : BitVec 8) (f p : BitVec 3) (rest : BitSeq)

@[simp] theorem headBits_length : (headBits header.toNat f p rest).length = 14 + rest.length := by
  simp only [headBits, List.length_append, toBits_length (BitVec.isLt _)]
  omega

@[simp] theorem field_headBits_header : field (headBits header.toNat f p rest) 0 8 = header :=
  field_toBits_append header _

@[simp] theorem field_headBits_filter : field (headBits header.toNat f p rest) 8 3 = f :=
  (field_append_right (toBits_length header.isLt) _ 0 3).trans (field_toBits_append f _)

@[simp] theorem field_headBits_partition : field (headBits header.toNat f p rest) 11 3 = p :=
  (field_append_right (toBits_length header.isLt) _ 3 3).trans <|
    (field_append_right (toBits_length f.isLt) _ 0 3).trans (field_toBits_append p _)

/-- R30: what follows the partition bits starts at offset 14. -/
theorem headBits_eq_append :
    ∃ head : BitSeq, head.length = 14 ∧ ∀ rest, headBits header.toNat f p rest = head ++ rest := by
  refine ⟨headBits header.toNat f p [], headBits_length .., fun rest => ?_⟩
  simp only [headBits, List.append_assoc, List.nil_append]

theorem field_headBits_rest (off w : Nat) : field (headBits header.toNat f p rest) (14 + off) w = field rest off w := by
  obtain ⟨head, hlen, hhead⟩ := headBits_eq_append header f p
  rw [hhead, field_append_right hlen]

@[simp] theorem headBits_drop : (headBits header.toNat f p rest).drop 14 = rest := by
  obtain ⟨head, hlen, hhead⟩ := headBits_eq_append header f p
  rw [hhead, List.drop_left' hlen]

end

/-- R33, R34, R35: what stands behind the partition bits of the rows with a company field. -/
theorem sgtinBits_eq_headBits {c r p : Nat} (hp : p ≤ 6) (header : BitVec 8) (f : BitVec 3) (cp : BitVec c)
    (ref : BitVec r) (rest : BitSeq) :
    sgtinBits header.toNat p f cp ref rest =
      headBits header.toNat f (BitVec.ofNat 3 p) (toBits cp.toNat c ++ (toBits ref.toNat r ++ rest)) := by
  rw [sgtinBits, headBits, BitVec.toNat_ofNat, Nat.mod_eq_of_lt (by omega)]

section
variable {c r p : Nat} (hp : p ≤ 6) (header : BitVec 8) (f : BitVec 3) (cp : BitVec c) (ref : BitVec r) (rest : BitSeq)
include hp

theorem sgtinBits_length : (sgtinBits header.toNat p f cp ref rest).length = 14 + c + r + rest.length := by
  simp only [sgtinBits_eq_headBits hp, headBits_length, List.length_append, toBits_length (BitVec.isLt _)]
  omega

theorem field_sgtinBits_header : field (sgtinBits header.toNat p f cp ref rest) 0 8 = header := by
  rw [sgtinBits_eq_headBits hp, field_headBits_header]

theorem field_sgtinBits_filter : field (sgtinBits header.toNat p f cp ref rest) 8 3 = f := by
  rw [sgtinBits_eq_headBits hp, field_headBits_filter]

theorem field_sgtinBits_partition : (field (sgtinBits header.toNat p f cp ref rest) 11 3).toNat = p := by
  rw [sgtinBits_eq_headBits hp, field_headBits_partition, BitVec.toNat_ofNat, Nat.mod_eq_of_lt (by omega)]

theorem field_sgtinBits_companyPrefix : field (sgtinBits header.toNat p f cp ref rest) 14 c = cp := by
  rw [sgtinBits_eq_headBits hp, field_headBits_rest _ _ _ _ 0, field_toBits_append]

theorem field_sgtinBits_reference : field (sgtinBits header.toNat p f cp ref rest) (14 + c) r = ref := by
  rw [sgtinBits_eq_headBits hp, field_headBits_rest]
  exact (field_append_right (toBits_length cp.isLt) _ 0 r).trans (field_toBits_append ref rest)

theorem field_sgtinBits_rest (off w : Nat) :
    field (sgtinBits header.toNat p f cp ref rest) (14 + c + r + off) w = field rest off w := by
  rw [sgtinBits_eq_headBits hp, Nat.add_assoc, Nat.add_assoc, field_headBits_rest,
    field_append_right (toBits_length cp.isLt), field_append_right (toBits_length ref.isLt)]

theorem sgtinBits_drop : (sgtinBits header.toNat p f cp ref rest).drop (14 + c + r) = rest := by
  rw [sgtinBits_eq_headBits hp, ← List.drop_drop, ← List.drop_drop, headBits_drop,
    List.drop_left' (toBits_length cp.isLt), List.drop_left' (toBits_length ref.isLt)]

end

/-! ### Every row is read back from its image (R26, R30, R31) -/

/-- R31: a variant's byte leads to it. -/
theorem headerTable_headerByte (v : EncodingVariant) : headerTable (headerByte v) = some v := by
  cases v with
  | reserved name => cases name <;> rfl
  | _ => rfl

/-- The checks that lead to a row are those the decoder makes. -/
theorem ImageRow.decodeImageBits_eq {b : BitSeq} {i : Instr} (h : ImageRow b i) : decodeImageBits b = .ok i := by
  cases h with
  | unsupported hl hv => simp (disch := omega) only [decodeImageBits, hv, if_neg]
  | partition7 hl hv hp | sgtin96 hl hv hp | sgtin198 hl hv hp | sscc96 hl hv hp | reserved hl hv hp =>
    simp (disch := omega) only [decodeImageBits, hv, if_neg, if_pos]

/-- R36, R50, R52: an image of whole nibbles, presented as its hexadecimal string, is read as its row. -/
theorem ImageRow.decode_bitsToHex {b : BitSeq} {i : Instr} (h : ImageRow b i) (hw : wholeNibbles b.length = true) :
    decode (.image (bitsToHex b)) = .ok i := by
  rw [decode_image_of_hexToBits (hexToBits_bitsToHex hw), h.decodeImageBits_eq]

section
variable {c r p : Nat} (hp : p ≤ 6) (f : BitVec 3) (cp : BitVec c) (ref : BitVec r)
include hp

/-- R33: the fields of an SGTIN-96 row come back from its image, `hrow` being the offsets its reader takes. -/
theorem decode_sgtin96_image (serial : BitVec 38) {row : BitVec 3 → BitVec c → BitVec r → BitVec 38 → Instr}
    (hn : 14 + c + r = 58)
    (hrow : ∀ b, decodeSgtin96 b p = row (field b 8 3) (field b 14 c) (field b (14 + c) r) (field b 58 38)) :
    decode (.image (bitsToHex (sgtinBits (48#8).toNat p f cp ref (toBits serial.toNat 38)))) =
      .ok (row f cp ref serial) := by
  have length : (sgtinBits (48#8).toNat p f cp ref (toBits serial.toNat 38)).length = 96 := by
    rw [sgtinBits_length hp, toBits_length serial.isLt, hn]
  have serialField : field (sgtinBits (48#8).toNat p f cp ref (toBits serial.toNat 38)) 58 38 = serial := by
    rw [← hn]
    exact (field_sgtinBits_rest hp _ f cp ref _ 0 38).trans (by simpa using field_toBits_append serial [])
  have read := ImageRow.sgtin96 length (by rw [field_sgtinBits_header hp]; rfl)
    ((field_sgtinBits_partition hp _ f cp ref _).trans_le hp)
  rw [field_sgtinBits_partition hp, hrow, field_sgtinBits_filter hp, field_sgtinBits_companyPrefix hp,
    field_sgtinBits_reference hp, serialField] at read
  exact read.decode_bitsToHex (by rw [length]; rfl)

variable {rest : BitSeq} {row : BitVec 3 → BitVec c → BitVec r → BitSeq → Instr}

/-- R34: the same of an SGTIN-198 row, whose serial is all bits behind the reference. -/
theorem decode_sgtin198_image (hn : 14 + c + r = 58) (hw : wholeNibbles (58 + rest.length) = true)
    (hrow : ∀ b, decodeSgtin198 b p = row (field b 8 3) (field b 14 c) (field b (14 + c) r) (b.drop (14 + c + r))) :
    decode (.image (bitsToHex (sgtinBits (54#8).toNat p f cp ref rest))) = .ok (row f cp ref rest) := by
  have length : (sgtinBits (54#8).toNat p f cp ref rest).length = 58 + rest.length := by rw [sgtinBits_length hp, hn]
  have read := ImageRow.sgtin198 (length ▸ Nat.le_add_right ..) (by rw [field_sgtinBits_header hp]; rfl)
    ((field_sgtinBits_partition hp _ f cp ref _).trans_le hp)
  rw [field_sgtinBits_partition hp, hrow, field_sgtinBits_filter hp, field_sgtinBits_companyPrefix hp,
    field_sgtinBits_reference hp, sgtinBits_drop hp] at read
  exact read.decode_bitsToHex (by rw [length, hw])

/-- R35: the same of an SSCC-96 row, with the unallocated bits behind the serial reference. -/
theorem decode_sscc96_image (hn : 14 + c + r = 72) (hw : wholeNibbles (72 + rest.length) = true)
    (hrow : ∀ b, decodeSscc96 b p = row (field b 8 3) (field b 14 c) (field b (14 + c) r) (b.drop (14 + c + r))) :
    decode (.image (bitsToHex (sgtinBits (49#8).toNat p f cp ref rest))) = .ok (row f cp ref rest) := by
  have length : (sgtinBits (49#8).toNat p f cp ref rest).length = 72 + rest.length := by rw [sgtinBits_length hp, hn]
  have read := ImageRow.sscc96 (length ▸ Nat.le_add_right ..) (by rw [field_sgtinBits_header hp]; rfl)
    ((field_sgtinBits_partition hp _ f cp ref _).trans_le hp)
  rw [field_sgtinBits_partition hp, hrow, field_sgtinBits_filter hp, field_sgtinBits_companyPrefix hp,
    field_sgtinBits_reference hp, sgtinBits_drop hp] at read
  exact read.decode_bitsToHex (by rw [length, hw])

end

/-- R112: the fields of a reserved row come back from its image. -/
theorem decode_reserved_image (name : ReservedName) {f p : BitVec 3} {rest : BitSeq}
    {row : BitVec 3 → BitVec 3 → BitSeq → Instr} (hwf : reservedWf p rest = true)
    (hrow : ∀ b, decodeReserved name b = row (field b 8 3) (field b 11 3) (b.drop 14)) :
    decode (.image (bitsToHex (headBits (headerByte (.reserved name)) f p rest))) = .ok (row f p rest) := by
  obtain ⟨header, hheader⟩ : ∃ header : BitVec 8, header.toNat = headerByte (.reserved name) :=
    ⟨BitVec.ofNat 8 (headerByte (.reserved name)), by cases name <;> rfl⟩
  simp only [reservedWf, Bool.and_eq_true, bne_iff_ne, decide_eq_true_eq] at hwf
  obtain ⟨legal, long, nibbles⟩ := hwf
  have partition : p.toNat ≤ 6 := by bv_omega
  have length := headBits_length header f p rest
  have read := ImageRow.reserved (name := name) (b := headBits header.toNat f p rest) (by omega)
    (by rw [field_headBits_header, hheader, headerTable_headerByte]) (by rw [field_headBits_partition]; exact partition)
  rw [hrow, field_headBits_filter, field_headBits_partition, headBits_drop] at read
  rw [← hheader]
  exact read.decode_bitsToHex (by rw [length, nibbles])

/-- R106: a header outside the table and the bits behind it come back. -/
theorem decode_unsupported_image {header : BitVec 8} {rest : BitSeq} (hwf : (Instr.unsupported header rest).wf = true) :
    decode (.image (bitsToHex (toBits header.toNat 8 ++ rest))) = .ok (.unsupported header rest) := by
  simp only [Instr.wf, Bool.and_eq_true, Option.isNone_iff_eq_none] at hwf
  obtain ⟨absent, nibbles⟩ := hwf
  have headerLength : (toBits header.toNat 8).length = 8 := toBits_length header.isLt
  have length : (toBits header.toNat 8 ++ rest).length = 8 + rest.length := by rw [List.length_append, headerLength]
  have read := ImageRow.unsupported (length ▸ Nat.le_add_right ..) (by rw [field_toBits_append]; exact absent)
  rw [field_toBits_append, List.drop_left' headerLength] at read
  exact read.decode_bitsToHex (by rw [length, nibbles])

/-- R108: the header, the filter and the rest of an image with partition bits 111 come back. -/
theorem decode_partition7_image {header : BitVec 8} {f : BitVec 3} {rest : BitSeq}
    (hwf : (Instr.partition7 header f rest).wf = true) :
    decode (.image (bitsToHex (headBits header.toNat f 7#3 rest))) = .ok (.partition7 header f rest) := by
  simp only [Instr.wf, Bool.and_eq_true, Option.isSome_iff_exists] at hwf
  obtain ⟨⟨v, hv⟩, nibbles⟩ := hwf
  have length := headBits_length header f 7#3 rest
  have read := ImageRow.partition7 (length ▸ Nat.le_add_right ..) (by rw [field_headBits_header]; exact hv)
    (by rw [field_headBits_partition]; rfl)
  rw [field_headBits_header, field_headBits_filter, headBits_drop] at read
  exact read.decode_bitsToHex (by rw [length, nibbles])

/-- Settles O10: a select code reads the operands it was presented with, and every image row from its image. -/
theorem decodeOfEncodeIsIdentity : Obligations.DecodeOfEncodeIsIdentity := by
  intro i hwf
  cases i with
  | encSgtin96 | encSgtin198 | encSscc96 | reserSgtin96 | dec | decGtin | decSscc | decSerial | chkDigit | chkValid => rfl
  | sgtin96P0 f cp ir ser | sgtin96P1 f cp ir ser | sgtin96P2 f cp ir ser | sgtin96P3 f cp ir ser
  | sgtin96P4 f cp ir ser | sgtin96P5 f cp ir ser | sgtin96P6 f cp ir ser =>
    exact decode_sgtin96_image (by decide) f cp ir ser rfl fun _ => rfl
  | sgtin198P0 f cp ir ser | sgtin198P1 f cp ir ser | sgtin198P2 f cp ir ser | sgtin198P3 f cp ir ser
  | sgtin198P4 f cp ir ser | sgtin198P5 f cp ir ser | sgtin198P6 f cp ir ser =>
    exact decode_sgtin198_image (by decide) f cp ir rfl hwf fun _ => rfl
  | sscc96P0 f cp sr un | sscc96P1 f cp sr un | sscc96P2 f cp sr un | sscc96P3 f cp sr un
  | sscc96P4 f cp sr un | sscc96P5 f cp sr un | sscc96P6 f cp sr un =>
    exact decode_sscc96_image (by decide) f cp sr rfl hwf fun _ => rfl
  | reservedDod64 f p rest => exact decode_reserved_image .dod64 hwf fun _ => rfl
  | reservedDod96 f p rest => exact decode_reserved_image .dod96 hwf fun _ => rfl
  | reservedGln96 f p rest => exact decode_reserved_image .gln96 hwf fun _ => rfl
  | reservedGrai96 f p rest => exact decode_reserved_image .grai96 hwf fun _ => rfl
  | reservedGiai96 f p rest => exact decode_reserved_image .giai96 hwf fun _ => rfl
  | reservedGid96 f p rest => exact decode_reserved_image .gid96 hwf fun _ => rfl
  | unsupported header rest => exact decode_unsupported_image hwf
  | partition7 header f rest => exact decode_partition7_image hwf

/-- Settles O12: three select codes are read as they stand, and the image of S2 is what its row encodes to. -/
theorem selectCodesAreRead : Obligations.SelectCodesAreRead := by
  have image : encode (.sgtin96P6 0#3 0#20 0#24 1#38) = .image (str "301800000000000000000001") := by decide
  refine ⟨rfl, rfl, rfl, ?_⟩
  rw [← image]
  exact decodeOfEncodeIsIdentity _ rfl

/-- Settles O15: a byte that leads to a variant is that variant's own, one of the nine. -/
theorem headerTableHoldsNineBytes : Obligations.HeaderTableHoldsNineBytes := by
  refine ⟨rfl, rfl, rfl, ?_, fun n outside => ?_⟩
  · simp [headerTable]
  · cases h : headerTable n with
    | none => rfl
    | some v =>
      have nine : headerByte v ∈ [206, 207, 54, 48, 49, 50, 51, 52, 53] := by
        cases v with
        | reserved name => cases name <;> decide
        | _ => decide
      exact absurd (eq_headerByte_of_headerTable h ▸ nine) outside

end Sys2Proof

/-! ### An image as a number (R26, R33, R35) -/

namespace Sys2Proof.Machine

/-- R91: operands that pass every check are packed. -/
theorem encodeSgtin96_of_passes {f p : Nat} {e : PartitionEntry} {cp ir ser : Str}
    (hpass : PassesSharedChecks f p e cp ir) (hser : isDigitStr ser = true) (hlt : parseDec ser < 2 ^ 38) :
    encodeSgtin96 f p cp ir ser = .ok (bitsToHex (imageHead 48 f p ++ toBits (parseDec cp) e.cpw ++
      toBits (parseDec ir) e.irw ++ toBits (parseDec ser) 38)) := by
  obtain ⟨⟨hf, he⟩, ⟨hcp, hcplt⟩, hir, hirlt⟩ := hpass
  have inRange : ¬ parseDec ser > serialBound := Nat.not_lt.2 hlt.le
  have fits : parseDec ser ≠ serialBound := hlt.ne
  simp only [encodeSgtin96, checkFilter_of_le hf, (checkPartition_ok_iff p e).2 he, checkCompanyPrefix,
    checkItemReference, checkSerial96, decimalOperand_of_digits, checkWidth_of_lt, hcp, hcplt, hir, hirlt, hser, inRange,
    fits, if_true, if_false, bind, Except.bind, pure, Except.pure]

/-- R95: the same of ENC.SSCC96. -/
theorem encodeSscc96_of_passes {f p : Nat} {e : PartitionEntry} {cp ext ser : Str} (hf : f ≤ 7)
    (he : partitionEntry p = some e) (hcp : isDigitStr cp = true) (hcplt : parseDec cp < 2 ^ e.cpw)
    (hfits : FitsSerialReference p e ext ser) :
    encodeSscc96 f p cp ext ser = .ok (bitsToHex (imageHead 49 f p ++ toBits (parseDec cp) e.cpw ++
      toBits (parseDec (ext ++ padLeftDigits ser (srpad p))) e.srw ++ zeros 24)) := by
  obtain ⟨hext, hsr, hsrlt⟩ := hfits
  simp only [encodeSscc96, checkFilter_of_le hf, (checkPartition_ok_iff p e).2 he, checkCompanyPrefix, serialRefField,
    decimalOperand_of_digits, checkWidth_of_lt, hcp, hcplt, hext, hsr, Nat.not_le.2 hsrlt, ne_eq, not_true_eq_false,
    if_false, bind, Except.bind, pure, Except.pure]

@[simp] theorem bitsToUnsigned_zeros (n : Nat) : bitsToUnsigned (zeros n) = 0 := by
  induction n with
  | zero => rfl
  | succ n ih => simpa [zeros, bitsToUnsigned, List.replicate_succ] using ih

section
variable {header f p cp c ref r : Nat} (hh : header < 2 ^ 8) (hf : f < 2 ^ 3) (hp : p < 2 ^ 3) (hcp : cp < 2 ^ c)
  (href : ref < 2 ^ r) {tail : BitSeq} (hlen : c + r + tail.length = 82)
include hh hf hp hcp href hlen

/-- R26: the fields of an image of 96 bits, each with the weight of its place. -/
theorem bitsToUnsigned_image96 :
    bitsToUnsigned (imageHead header f p ++ toBits cp c ++ toBits ref r ++ tail) = header * 2 ^ 88 + f * 2 ^ 85 +
      p * 2 ^ 82 + cp * 2 ^ (82 - c) + ref * 2 ^ tail.length + bitsToUnsigned tail := by
  have behindPrefix : 82 - c = r + tail.length := by omega
  have whole : (2 : Nat) ^ 82 = 2 ^ c * 2 ^ r * 2 ^ tail.length := by rw [← hlen, pow_add, pow_add]
  simp only [imageHead, bitsToUnsigned_append, bitsToUnsigned_toBits, toBits_length, hh, hf, hp, hcp, href]
  rw [behindPrefix, pow_add, show 88 = 82 + 6 from rfl, show 85 = 82 + 3 from rfl, pow_add 2 82, pow_add 2 82, whole]
  ring

/-- R20, R26: the string of an image of 96 bits has 24 characters, and converts to bits of that number. -/
theorem image96_as_number :
    ∃ b, (bitsToHex (imageHead header f p ++ toBits cp c ++ toBits ref r ++ tail)).length = 24 ∧
      hexToBits (bitsToHex (imageHead header f p ++ toBits cp c ++ toBits ref r ++ tail)) = some b ∧ b.length = 96 ∧
      bitsToUnsigned b = header * 2 ^ 88 + f * 2 ^ 85 + p * 2 ^ 82 + cp * 2 ^ (82 - c) + ref * 2 ^ tail.length +
        bitsToUnsigned tail := by
  have length : (imageHead header f p ++ toBits cp c ++ toBits ref r ++ tail).length = 96 := by
    simp only [imageHead, List.length_append, toBits_length, hh, hf, hp, hcp, href]
    omega
  exact ⟨_, by rw [bitsToHex_length, length], hexToBits_bitsToHex (by rw [length]; rfl), length,
    bitsToUnsigned_image96 hh hf hp hcp href hlen⟩

end

/-- Settles O33: the serial is the tail of 38 bits behind the item reference. -/
theorem sgtin96ImageAsANumber : Obligations.Sgtin96ImageAsANumber := by
  intro s f p e cp ir ser hpass hser hlt
  have image := answerImage_of_ok (encodeSgtin96_of_passes hpass hser hlt) s
  obtain ⟨⟨hf, he⟩, ⟨-, hcp⟩, -, hir⟩ := hpass
  have serial : (toBits (parseDec ser) 38).length = 38 := toBits_length hlt
  have fill : e.cpw + e.irw + (toBits (parseDec ser) 38).length = 82 := by
    rw [serial, (partitionEntry_widths he).1]
  obtain ⟨b, characters, converts, bits, value⟩ := image96_as_number (header := 48) (by decide) (Nat.lt_succ_of_le hf)
    (lt_eight_of_partitionEntry he) hcp hir fill
  rw [serial, bitsToUnsigned_toBits hlt] at value
  exact ⟨_, b, image, characters, converts, bits, value⟩

/-- Settles O36: the tail behind the serial reference is 24 zero bits. -/
theorem sscc96ImageAsANumber : Obligations.Sscc96ImageAsANumber := by
  intro s f p e cp ext ser hf he hcp hcplt hfits
  have image := answerImage_of_ok (encodeSscc96_of_passes hf he hcp hcplt hfits) s
  obtain ⟨-, -, hsr⟩ := hfits
  rw [show srpad p = p + 4 from rfl] at image hsr
  have fill : e.cpw + e.srw + (zeros 24).length = 82 := by rw [zeros_length, (partitionEntry_widths he).2]
  obtain ⟨b, characters, converts, bits, value⟩ := image96_as_number (header := 49) (by decide) (Nat.lt_succ_of_le hf)
    (lt_eight_of_partitionEntry he) hcplt hsr fill
  rw [zeros_length, bitsToUnsigned_zeros, Nat.add_zero] at value
  exact ⟨_, b, image, characters, converts, bits, value⟩

end Sys2Proof.Machine

/-! ### Conversion from hexadecimal, character by character (R50) -/

namespace Sys2Proof

theorem hexToBits_cons_of_hexToBits_none {c : Chr} {cs : Str} (h : hexToBits cs = none) :
    hexToBits (c :: cs) = none := by
  rw [hexToBits, h]
  cases hexDigit? c <;> rfl

theorem hexToBits_cons_of_hexDigit?_none {c : Chr} {cs : Str} (h : hexDigit? c = none) :
    hexToBits (c :: cs) = none := by
  rw [hexToBits, h]

/-- R50: one character converts to the four bits of its digit. -/
theorem hexToBits_singleton (c : Chr) : hexToBits [c] = (hexDigit? c).map nibble := by
  cases hc : hexDigit? c with
  | none => exact hexToBits_cons_of_hexDigit?_none hc
  | some v => exact hexToBits_cons hc rfl

/-- R50: a string converts character by character. -/
theorem hexToBits_append {h g : Str} {b d : BitSeq} (hb : hexToBits h = some b) (hd : hexToBits g = some d) :
    hexToBits (h ++ g) = some (b ++ d) := by
  induction h generalizing b with
  | nil => cases hb; exact hd
  | cons c cs ih =>
    rw [hexToBits] at hb
    split at hb
    · next v e hc hcs =>
      cases hb
      rw [List.cons_append, hexToBits_cons hc (ih hcs), List.append_assoc]
    · cases hb

/-- R50: a string is malformed exactly where one of its characters is no digit. -/
theorem hexToBits_eq_none_iff (h : Str) : hexToBits h = none ↔ ∃ c ∈ h, hexDigit? c = none := by
  induction h with
  | nil => simp [hexToBits]
  | cons c cs ih =>
    rw [List.exists_mem_cons_iff, ← ih]
    constructor
    · intro malformed
      cases hc : hexDigit? c with
      | none => exact .inl rfl
      | some v =>
        cases hcs : hexToBits cs with
        | none => exact .inr rfl
        | some b => rw [hexToBits_cons hc hcs] at malformed; cases malformed
    · rintro (hc | hcs)
      · exact hexToBits_cons_of_hexDigit?_none hc
      · exact hexToBits_cons_of_hexToBits_none hcs

/-- R20, R55: the four bits of a digit are its value packed in 4 bits. -/
theorem nibble_eq_toBits {v : Nat} (h : v < 16) : nibble v = toBits v 4 := by
  rw [toBits_eq_lowBits h]
  simp [nibble, lowBits, Nat.div_div_eq_div_mul]

theorem hexDigit?_of_isUpperHex {c : Chr} (h : Machine.isUpperHex c = true) :
    hexDigit? c = some (if c.toNat ≤ 57 then c.toNat - 48 else c.toNat - 55) := by
  simp only [Machine.isUpperHex, Bool.or_eq_true, Bool.and_eq_true, decide_eq_true_eq] at h
  rcases h with decimal | letter
  · rw [hexDigit?, if_pos decimal, if_pos decimal.2]
  · rw [hexDigit?, if_neg (by omega), if_pos letter, if_neg (by omega)]

/-- R50: the characters `a` to `f` are as HEX_LOWER says. -/
theorem hexDigit?_of_lower {c : Chr} (h : 97 ≤ c.toNat ∧ c.toNat ≤ 102) :
    hexDigit? c = if Config.hexLowerAccepted then some (c.toNat - 87) else none := by
  rw [hexDigit?, if_neg (by omega), if_neg (by omega), if_pos h]

theorem hexDigit?_of_other {c : Chr} (upper : Machine.isUpperHex c = false)
    (lower : ¬(97 ≤ c.toNat ∧ c.toNat ≤ 102)) : hexDigit? c = none := by
  simp only [Machine.isUpperHex, Bool.or_eq_false_iff, Bool.and_eq_false_iff, decide_eq_false_iff_not] at upper
  rw [hexDigit?, if_neg (by omega), if_neg (by omega), if_neg lower]

/-- Settles O17: the string's bits are those of its characters' digits, in order. -/
theorem hexConversionFailsOnlyOnNonDigits : Obligations.HexConversionFailsOnlyOnNonDigits := by
  refine ⟨rfl, fun h => ?_, fun _ _ => hexToBits_length, fun _ _ _ _ => hexToBits_append, fun c hc => ?_,
    fun c low high => ?_, fun c upper lower => ?_⟩
  · simp only [hexToBits_singleton, Option.map_eq_none_iff, hexToBits_eq_none_iff h]
  · have value : (if c.toNat ≤ 57 then c.toNat - 48 else c.toNat - 55) < 16 := by
      simp only [Machine.isUpperHex, Bool.or_eq_true, Bool.and_eq_true, decide_eq_true_eq] at hc
      split <;> omega
    rw [hexToBits_singleton, hexDigit?_of_isUpperHex hc, Option.map_some, nibble_eq_toBits value]
  · rw [hexToBits_singleton, hexDigit?_of_lower ⟨low, high⟩]
    split
    · rw [Option.map_some, nibble_eq_toBits (by omega)]
    · rfl
  · rw [hexToBits_singleton, hexDigit?_of_other upper lower, Option.map_none]

/-! ### A short last group (R52) -/

/-- R52: whole groups are written before what follows them. -/
theorem bitsToHex_append_of_whole {a : BitSeq} {n : Nat} (ha : a.length = 4 * n) (b : BitSeq) :
    bitsToHex (a ++ b) = bitsToHex a ++ bitsToHex b := by
  induction n generalizing a with
  | zero => rw [List.eq_nil_of_length_eq_zero ha]; rfl
  | succ n ih =>
    have group : (a.take 4).length = 4 := by rw [List.length_take]; omega
    have rest : (a.drop 4).length = 4 * n := by rw [List.length_drop]; omega
    rw [← List.take_append_drop 4 a, List.append_assoc, bitsToHex_append _ _ group, bitsToHex_append _ _ group, ih rest,
      List.cons_append]

/-- R52: a short group is one character, read as a number of its own. -/
theorem bitsToHex_of_short {g : BitSeq} (hpos : 0 < g.length) (hlt : g.length < 4) :
    bitsToHex g = [hexChar (bitsToUnsigned g)] := by
  obtain _ | ⟨x, xs⟩ := g
  · cases hpos
  · have behind : (x :: xs).drop 4 = [] := List.drop_eq_nil_of_le hlt.le
    have group : (x :: xs).take 4 = x :: xs := List.take_of_length_le hlt.le
    rw [bitsToHex, groupsOf, List.length_cons, groups, behind, group, groups_nil]
    rfl

/-- R51: zeros in front do not change the value. -/
theorem bitsToUnsigned_zeros_append (n : Nat) (b : BitSeq) : bitsToUnsigned (zeros n ++ b) = bitsToUnsigned b := by
  rw [bitsToUnsigned_append, Machine.bitsToUnsigned_zeros, Nat.zero_mul, Nat.zero_add]

/-- R50, R52: a short group comes back with the missing zeros in front. -/
theorem hexToBits_bitsToHex_of_short {g : BitSeq} (h : g.length < 4) :
    hexToBits (bitsToHex g) = some (zeros ((4 - g.length) % 4) ++ g) := by
  obtain hnil | hpos := Nat.eq_zero_or_pos g.length
  · rw [List.eq_nil_of_length_eq_zero hnil]; rfl
  · have filled : (zeros (4 - g.length) ++ g).length = 4 := by
      rw [List.length_append, zeros_length, Nat.sub_add_cancel h.le]
    rw [bitsToHex_of_short hpos h, hexToBits_singleton, hexDigit?_hexChar (bitsToUnsigned_lt_of_length_le h.le),
      Option.map_some, ← bitsToUnsigned_zeros_append (4 - g.length), nibble_bitsToUnsigned filled,
      Nat.mod_eq_of_lt (Nat.sub_lt (by decide) hpos)]

/-- R52: what a bit sequence comes back as: its whole groups, the missing zeros, its short group. -/
theorem hexToBits_bitsToHex_eq (b : BitSeq) : hexToBits (bitsToHex b) =
    some (b.take (b.length / 4 * 4) ++ zeros ((4 - b.length % 4) % 4) ++ b.drop (b.length / 4 * 4)) := by
  have wholeLength : (b.take (b.length / 4 * 4)).length = 4 * (b.length / 4) := by rw [List.length_take]; omega
  have shortLength : (b.drop (b.length / 4 * 4)).length = b.length % 4 := by rw [List.length_drop]; omega
  have whole : hexToBits (bitsToHex (b.take (b.length / 4 * 4))) = some (b.take (b.length / 4 * 4)) :=
    hexToBits_bitsToHex (by simp [wholeNibbles, wholeLength])
  have short := hexToBits_bitsToHex_of_short (shortLength.trans_lt (Nat.mod_lt _ (by decide)))
  rw [shortLength] at short
  calc hexToBits (bitsToHex b)
      = hexToBits (bitsToHex (b.take (b.length / 4 * 4)) ++ bitsToHex (b.drop (b.length / 4 * 4))) := by
        rw [← bitsToHex_append_of_whole wholeLength, List.take_append_drop]
    _ = _ := by rw [hexToBits_append whole short, List.append_assoc]

/-- R52: a bit sequence comes back unchanged exactly when it is whole nibbles; otherwise it comes back longer. -/
theorem hexToBits_bitsToHex_eq_self_iff (b : BitSeq) : hexToBits (bitsToHex b) = some b ↔ b.length % 4 = 0 := by
  constructor
  · intro back
    have length := hexToBits_length back
    rw [bitsToHex_length] at length
    omega
  · intro whole
    exact hexToBits_bitsToHex (by simp [wholeNibbles, whole])

/-- Settles O18: the whole groups come back as they are, the short one by `hexToBits_bitsToHex_of_short`. -/
theorem shortLastGroupComesBackPrecededByZeros : Obligations.ShortLastGroupComesBackPrecededByZeros := fun b =>
  ⟨bitsToHex_all_isUpperHex b, bitsToHex_length b, hexToBits_bitsToHex_eq b, hexToBits_bitsToHex_eq_self_iff b⟩

/-! ### Packing a number (R55, R58) -/

@[simp] theorem binary_length (v : Nat) : (binary v).length = bitlen v := lowBits_length _ _

/-- R55: the shortest bit sequence of a number has its value. -/
@[simp] theorem bitsToUnsigned_binary (v : Nat) : bitsToUnsigned (binary v) = v :=
  bitsToUnsigned_lowBits ((Machine.bitlen_le_iff v _).1 le_rfl)

/-- R58: a number from `2^w` on needs more than `w` bits. -/
theorem lt_bitlen {v w : Nat} (h : 2 ^ w ≤ v) : w < bitlen v :=
  Nat.lt_of_not_le fun fits => h.not_gt ((Machine.bitlen_le_iff v w).1 fits)

/-- R55: nothing is cut off a number that does not fit its field. -/
theorem toBits_of_le {v w : Nat} (h : 2 ^ w ≤ v) : toBits v w = binary v :=
  padLeft_of_length_le _ _ _ (by rw [binary_length]; exact (lt_bitlen h).le)

/-- Settles O19: packing the value of a sequence of `w` bits in `w` bits gives the sequence back. -/
theorem toBitsIsTheOnlySequenceOfItsValue : Obligations.ToBitsIsTheOnlySequenceOfItsValue := by
  refine fun v w => ⟨fun h => ⟨toBits_length h, bitsToUnsigned_toBits h, ?_⟩, fun h => ?_⟩
  · rintro b rfl rfl
    exact (toBits_bitsToUnsigned b).symm
  · rw [toBits_of_le h, binary_length]
    exact ⟨lt_bitlen h, bitsToUnsigned_binary v⟩

/-! ### Decimal renderings (R56, R57) -/

theorem isDigit_digitChar {v : Nat} (h : v < 10) : isDigit (digitChar v) = true := by
  interval_cases v <;> rfl

theorem decDigits_all_isDigit (n v : Nat) : (decDigits n v).all isDigit = true := by
  induction n generalizing v with
  | zero => rfl
  | succ n ih =>
    rw [decDigits]
    split
    · next small => simp [isDigit_digitChar small]
    · rw [List.all_append, ih, List.all_cons, isDigit_digitChar (Nat.mod_lt v (by decide))]; rfl

/-- R57: a rendering is a digit string. -/
theorem isDigitStr_dec (v : Nat) : isDigitStr (dec v) = true := by
  have nonempty : (dec v).isEmpty = false := List.isEmpty_eq_false_iff.2 (List.ne_nil_of_length_pos (dec_length_pos v))
  rw [isDigitStr, nonempty, dec, decDigits_all_isDigit]
  rfl

/-- The digits of a positive number begin with a positive digit. -/
theorem exists_decDigits_head?_eq {n v : Nat} (hpos : 0 < v) (h : v < 2 ^ n) :
    ∃ d, 0 < d ∧ d < 10 ∧ (decDigits n v).head? = some (digitChar d) := by
  induction n generalizing v with
  | zero => rw [pow_zero] at h; omega
  | succ n ih =>
    rw [decDigits]
    split
    · next small => exact ⟨v, hpos, small, rfl⟩
    · have quotient : v / 10 < 2 ^ n := by rw [pow_succ] at h; omega
      obtain ⟨d, hd, digit, head⟩ := ih (by omega) quotient
      exact ⟨d, hd, digit, by rw [List.head?_append, head]; rfl⟩

/-- R57: a rendering has no leading zero, but for that of 0. -/
theorem dec_head?_ne_zero {v : Nat} (h : v ≠ 0) : (dec v).head? ≠ some 48#8 := by
  obtain ⟨d, hpos, digit, head⟩ := exists_decDigits_head?_eq (Nat.pos_of_ne_zero h) Nat.lt_log2_self
  rw [dec, head, ne_eq, Option.some_inj]
  intro zero
  have value := digitVal_digitChar digit
  rw [zero] at value
  exact hpos.ne value

theorem digitVal_lt_of_isDigit {c : Chr} (h : isDigit c = true) : digitVal c < 10 := by
  rw [isDigit, Bool.and_eq_true, decide_eq_true_eq, decide_eq_true_eq] at h
  rw [digitVal]
  omega

/-- R56: the value of a string of `n` digits is below `10^n`. -/
theorem parseDec_lt {s : Str} (h : s.all isDigit = true) : parseDec s < 10 ^ s.length := by
  induction s using List.reverseRecOn with
  | nil => decide
  | append_singleton s c ih =>
    rw [List.all_append, Bool.and_eq_true, List.all_cons, List.all_nil, Bool.and_true] at h
    obtain ⟨digits, digit⟩ := h
    have front : parseDec s < 10 ^ s.length := ih digits
    have last : digitVal c < 10 := digitVal_lt_of_isDigit digit
    rw [parseDec_append_singleton, List.length_append, List.length_singleton, pow_succ]
    omega

/-- R57: no digit string of a number is shorter than its rendering. -/
theorem dec_parseDec_length_le {s : Str} (h : isDigitStr s = true) : (dec (parseDec s)).length ≤ s.length := by
  rw [isDigitStr, Bool.and_eq_true, Bool.not_eq_true'] at h
  obtain ⟨nonempty, digits⟩ := h
  exact dec_length_le (List.length_pos_of_ne_nil (List.isEmpty_eq_false_iff.1 nonempty)) (parseDec_lt digits)

/-- Settles O20: a digit string of `n` characters has a value below `10^n`, whose rendering has at most `n` digits. -/
theorem decIsTheShortestRendering : Obligations.DecIsTheShortestRendering := by
  refine ⟨rfl, fun v => ⟨isDigitStr_dec v, parseDec_dec v, dec_head?_ne_zero, ?_⟩⟩
  rintro s digits rfl
  exact dec_parseDec_length_le digits

end Sys2Proof

/-! ### The partition table's rows (R66, R67, R68) -/

namespace Sys2Proof.Machine

/-- R66: every index up to 6 has a row. -/
theorem exists_partitionEntry {p : Nat} (h : p ≤ 6) : ∃ e, partitionEntry p = some e :=
  Option.ne_none_iff_exists'.1 fun missing => ((partitionEntry_eq_none_iff p).1 missing).not_ge h

theorem ird_eq {p : Nat} (h : p ≤ 12) : ird p = 1 + p := by rw [ird]; omega

theorem srd_eq {p : Nat} (h : p ≤ 12) : srd p = 5 + p := by rw [srd]; omega

/-- R68: a field holds `10^d`, the least number with a digit more than its nominal count `d`, so every number of that
count too; row by row a comparison of two numbers. -/
theorem partitionEntry_holds_nominal_digits {p : Nat} {e : PartitionEntry} (h : partitionEntry p = some e) :
    10 ^ cpd p ≤ 2 ^ e.cpw - 1 ∧ 10 ^ ird p ≤ 2 ^ e.irw - 1 ∧ 10 ^ srd p ≤ 2 ^ e.srw - 1 := by
  rcases partitionEntry_rows h with ⟨rfl, rfl⟩ | ⟨rfl, rfl⟩ | ⟨rfl, rfl⟩ | ⟨rfl, rfl⟩ | ⟨rfl, rfl⟩ | ⟨rfl, rfl⟩ |
    ⟨rfl, rfl⟩ <;> decide

end Sys2Proof.Machine

namespace Sys2Proof

/-- Settles O16: the two sums of widths give the image lengths, and each field holds `10^d` for its nominal count `d`. -/
theorem partitionRowsFillTheImage : Obligations.PartitionRowsFillTheImage := by
  refine ⟨fun p => (Machine.partitionEntry_eq_none_iff p).2, fun p hp => ?_⟩
  obtain ⟨e, he⟩ := Machine.exists_partitionEntry hp
  have ⟨itemWidths, serialWidths⟩ := Machine.partitionEntry_widths he
  have ⟨company, item, serial⟩ := Machine.partitionEntry_holds_nominal_digits he
  have itemDigits : ird p = 1 + p := Machine.ird_eq (by omega)
  have serialDigits : srd p = 5 + p := Machine.srd_eq (by omega)
  rw [itemDigits] at item
  rw [serialDigits] at serial
  exact ⟨e, he, itemWidths, serialWidths, by rw [itemWidths], by rw [itemWidths], by rw [serialWidths],
    company, item, serial, rfl, itemDigits, serialDigits, rfl⟩

end Sys2Proof

/-! ### The 7-bit codec (R70, R71, R72) -/

namespace Sys2Proof

/-- R70, R73: a character that is packed has a code below 128, and its 7 bits stand before those of the characters behind
it. -/
theorem encode7bit_cons_eq_some_iff (c : Chr) (cs : Str) (b : BitSeq) :
    encode7bit (c :: cs) = some b ↔
      c.toNat < 2 ^ 7 ∧ ∃ d, encode7bit cs = some d ∧ toBits c.toNat 7 ++ d = b := by
  rw [encode7bit]
  split
  · next wide => simp [wide]
  · next narrow => simp [Nat.lt_of_not_le narrow]

/-- R71: a whole group gives one character, or none where its value is 9 or less. -/
theorem decode7bit_append_of_group {g : BitSeq} (hg : g.length = 7) (rest : BitSeq) :
    decode7bit (g ++ rest) =
      (if 9 < bitsToUnsigned g then [BitVec.ofNat 8 (bitsToUnsigned g)] else []) ++ decode7bit rest := by
  rw [decode7bit, groupsOf_append 7 g rest (by decide) hg, List.map_cons, List.filter_cons]
  by_cases kept : 9 < bitsToUnsigned g <;> simp [kept, decode7bit]

/-- R71, R72: a packed character is unpacked, unless its code is 9 or less. -/
theorem decode7bit_toBits_append {c : Chr} (hc : c.toNat < 2 ^ 7) (rest : BitSeq) :
    decode7bit (toBits c.toNat 7 ++ rest) = (if 9 < c.toNat then [c] else []) ++ decode7bit rest := by
  rw [decode7bit_append_of_group (toBits_length hc), bitsToUnsigned_toBits hc, BitVec.ofNat_toNat, BitVec.setWidth_eq]

/-- R72: a packed string loses its characters of code 0 to 9, and what is behind it is unpacked as if it stood alone. -/
theorem decode7bit_append_of_encode7bit {s : Str} {b : BitSeq} (h : encode7bit s = some b) (rest : BitSeq) :
    decode7bit (b ++ rest) = s.filter (fun c => decide (9 < c.toNat)) ++ decode7bit rest := by
  induction s generalizing b with
  | nil => cases h; rfl
  | cons c cs ih =>
    obtain ⟨hc, d, hd, rfl⟩ := (encode7bit_cons_eq_some_iff c cs b).1 h
    rw [List.append_assoc, decode7bit_toBits_append hc, ih hd, List.filter_cons]
    by_cases kept : 9 < c.toNat <;> simp [kept]

/-- R71: a group holds bits of the sequence only. -/
theorem subset_of_mem_groups {w n : Nat} {b g : BitSeq} (h : g ∈ groups w n b) : g ⊆ b := by
  induction n generalizing b with
  | zero => simp [groups] at h
  | succ n ih =>
    rw [groups] at h
    split at h
    · simp at h
    · obtain rfl | behind := List.mem_cons.1 h
      · exact List.take_subset w b
      · exact List.Subset.trans (ih behind) (List.drop_subset w b)

/-- R72: zero bits decode to nothing, since every group of them, whole or short, has value 0. -/
@[simp] theorem decode7bit_zeros (n : Nat) : decode7bit (zeros n) = [] := by
  have zeroValue : ∀ g ∈ groupsOf 7 (zeros n), bitsToUnsigned g = 0 := by
    intro g hg
    have zeroBits : g = zeros g.length :=
      List.eq_replicate_of_mem fun x hx => List.eq_of_mem_replicate (subset_of_mem_groups hg hx)
    rw [zeroBits, Machine.bitsToUnsigned_zeros]
  rw [decode7bit, List.map_eq_nil_iff, List.filter_eq_nil_iff, List.forall_mem_map]
  exact fun g hg => by simp [zeroValue g hg]

/-- Settles O21: each whole group gives its character back unless the code is 9 or less, and zero bits are such groups. -/
theorem sevenBitDecodeDropsLowCodes : Obligations.SevenBitDecodeDropsLowCodes := by
  intro s b h
  have unpacked : decode7bit b = s.filter (fun c => decide (9 < c.toNat)) := by
    simpa [decode7bit] using decode7bit_append_of_encode7bit h []
  refine ⟨encode7bit_length h, unpacked, ?_, fun n => ?_⟩
  · simp only [unpacked, List.filter_eq_self, decide_eq_true_eq]
  · rw [decode7bit_append_of_encode7bit h, decode7bit_zeros, List.append_nil, unpacked]

end Sys2Proof

/-! ### The weighted sum (R75, R78) -/

namespace Sys2Proof

/-- R75: the digit at distance `k` from the right end has the first weight for even `k`, the other one for odd `k`. -/
theorem weightedSumFrom_eq_sum {w : Nat} (hw : w ≤ 4) (cs : Str) :
    weightedSumFrom w cs =
      ∑ k ∈ Finset.range cs.length, digitVal (cs.getD k 48#8) * (if k % 2 = 0 then w else 4 - w) := by
  induction cs generalizing w with
  | nil => rfl
  | cons c cs ih =>
    have alternate : ∀ k, (if (k + 1) % 2 = 0 then w else 4 - w) = if k % 2 = 0 then 4 - w else 4 - (4 - w) := by
      intro k
      split <;> split <;> omega
    rw [weightedSumFrom, ih (Nat.sub_le 4 w), List.length_cons, Finset.sum_range_succ', add_comm]
    simp only [List.getD_cons_succ, List.getD_cons_zero, alternate, Nat.zero_mod, if_true]

/-- R78: no digit weighs more than a 9 in its place. -/
theorem weightedSumFrom_le_nines {cs : Str} (h : cs.all isDigit = true) (w : Nat) :
    weightedSumFrom w cs ≤ weightedSumFrom w (List.replicate cs.length 57#8) := by
  induction cs generalizing w with
  | nil => rfl
  | cons c cs ih =>
    rw [List.all_cons, Bool.and_eq_true] at h
    obtain ⟨digit, digits⟩ := h
    have first : digitVal c ≤ digitVal 57#8 := Nat.le_of_lt_succ (digitVal_lt_of_isDigit digit)
    exact Nat.add_le_add (Nat.mul_le_mul_right w first) (ih digits (4 - w))

/-- R78: of `n` nines, every other one from the first has the first weight. -/
theorem weightedSumFrom_nines {w : Nat} (hw : w ≤ 4) (n : Nat) :
    weightedSumFrom w (List.replicate n 57#8) = 9 * (w * ((n + 1) / 2) + (4 - w) * (n / 2)) := by
  induction n generalizing w with
  | zero => simp [weightedSumFrom]
  | succ n ih =>
    have nine : digitVal 57#8 = 9 := rfl
    have half : (n + 1 + 1) / 2 = n / 2 + 1 := Nat.add_div_right n two_pos
    rw [List.replicate_succ, weightedSumFrom, ih (Nat.sub_le 4 w), nine, half, Nat.sub_sub_self hw]
    ring

theorem weightedSum_nines (n : Nat) :
    weightedSum (List.replicate n 57#8) = 9 * (3 * ((n + 1) / 2) + n / 2) := by
  rw [weightedSum, List.reverse_replicate, weightedSumFrom_nines (by decide), Nat.one_mul]

theorem weightedSum_le_nines {d : Str} (h : d.all isDigit = true) :
    weightedSum d ≤ weightedSum (List.replicate d.length 57#8) := by
  have digits : d.reverse.all isDigit = true := by rw [List.all_reverse, h]
  simpa only [weightedSum, List.reverse_replicate, List.length_reverse] using weightedSumFrom_le_nines digits 3

/-- Settles O22: the recursion over the reversed string runs by distance from the right end; 1000 is a multiple of 10. -/
theorem weightsAlternateFromTheRight : Obligations.WeightsAlternateFromTheRight := by
  intro d
  constructor
  · rw [weightedSum, weightedSumFrom_eq_sum (by decide), List.length_reverse]
    refine Finset.sum_congr rfl fun k hk => ?_
    rw [List.getD_reverse k (Finset.mem_range.1 hk)]
  · intro h
    have sameDigit : (10 - weightedSum d % 10) % 10 = (1000 - weightedSum d) % 10 := by omega
    rw [sameDigit]
    exact ⟨Machine.weightedChecksum_of_le h, Machine.weightedChecksum_of_le h⟩

/-- Settles O23: no digits sum to more than as many nines, whose sum is exact; that of 55 nines is 999. -/
theorem fiftyFiveDigitsStayInRange : Obligations.FiftyFiveDigitsStayInRange := by
  intro d digits
  have bound := weightedSum_le_nines digits
  rw [weightedSum_nines] at bound
  exact ⟨bound, weightedSum_nines d.length, fun short => by omega⟩

/-- R3, R56: a digit string has a last digit, behind digits or nothing. -/
theorem exists_append_of_isDigitStr {d : Str} (h : isDigitStr d = true) :
    ∃ g c, d = g ++ [c] ∧ g.all isDigit = true ∧ isDigit c = true := by
  cases d using List.reverseRecOn with
  | nil => cases h
  | append_singleton g c =>
    rw [isDigitStr, Bool.and_eq_true, List.all_append, Bool.and_eq_true, List.all_cons, List.all_nil,
      Bool.and_true] at h
    exact ⟨g, c, rfl, h.2⟩

end Sys2Proof

/-! ### The checksum operations (R76, R77) -/

namespace Sys2Proof.Machine

theorem finish_map_of_ok {α : Type} {c : Checked α} {a : α} (h : c = .ok a) (make : α → Response) (s : State) :
    finish (c.map make) s = .next (s.respond (make a)) := by rw [h]; rfl

theorem finish_map_of_refuse {α : Type} {c : Checked α} {x : Refusal} (h : c = .error (.refuse x))
    (make : α → Response) (s : State) : finish (c.map make) s = .refused x := by rw [h]; rfl

/-- R76: on the empty payload and on a digit string it is the check-digit computation that decides. -/
theorem payloadDigit_of_digits {d : Str} (h : d = [] ∨ isDigitStr d = true) :
    payloadDigit d = weightedChecksum d := by
  have accepted : (d.isEmpty || isDigitStr d) = true := by rwa [Bool.or_eq_true, List.isEmpty_iff]
  rw [payloadDigit, if_pos accepted]

theorem payloadDigit_of_not {d : Str} (hne : d ≠ []) (h : isDigitStr d = false) :
    payloadDigit d = .error (.refuse .payloadNotNumeric) := by
  simp [payloadDigit, hne, h]

theorem exec_chkDigit_of_le {d : Str} (hd : d = [] ∨ isDigitStr d = true) (h : weightedSum d ≤ 1000) (s : State) :
    exec (.chkDigit d) s = .next (s.respond (Response.ofDigit ((1000 - weightedSum d) % 10))) :=
  finish_map_of_ok ((payloadDigit_of_digits hd).trans (weightedChecksum_of_le h)) _ s

theorem exec_chkDigit_of_gt {d : Str} (hd : isDigitStr d = true) (h : 1000 < weightedSum d) (s : State) :
    exec (.chkDigit d) s = .refused .checksumSumOver1000 :=
  finish_map_of_refuse ((payloadDigit_of_digits (.inr hd)).trans (weightedChecksum_of_gt h)) _ s

theorem exec_chkDigit_of_not {d : Str} (hne : d ≠ []) (h : isDigitStr d = false) (s : State) :
    exec (.chkDigit d) s = .refused .payloadNotNumeric :=
  finish_map_of_refuse (payloadDigit_of_not hne h) _ s

theorem exec_chkValid_of_not {d : Str} (h : isDigitStr d = false) (s : State) :
    exec (.chkValid d) s = .next (s.respond (Response.ofValid false)) :=
  finish_map_of_ok (validate_of_not h) _ s

theorem exec_chkValid_append_of_le {d : Str} {c : Chr} (hd : d.all isDigit = true) (hc : isDigit c = true)
    (h : weightedSum d ≤ 1000) (s : State) : exec (.chkValid (d ++ [c])) s =
      .next (s.respond (Response.ofValid ((1000 - weightedSum d) % 10 == digitVal c))) := by
  refine finish_map_of_ok ?_ _ s
  rw [validate_append hd hc, weightedChecksum_of_le h]
  rfl

theorem exec_chkValid_append_of_gt {d : Str} {c : Chr} (hd : d.all isDigit = true) (hc : isDigit c = true)
    (h : 1000 < weightedSum d) (s : State) : exec (.chkValid (d ++ [c])) s = .refused .checksumSumOver1000 := by
  refine finish_map_of_refuse ?_ _ s
  rw [validate_append hd hc, weightedChecksum_of_gt h]
  rfl

/-- Everything CHK.VALID can do: it answers, or the sum of all digits but the last is over 1000 (R77, R78). -/
theorem exec_chkValid_cases (d : Str) (s : State) :
    (∃ v, exec (.chkValid d) s = .next (s.respond (Response.ofValid v))) ∨
      (1000 < weightedSum d.dropLast ∧ exec (.chkValid d) s = .refused .checksumSumOver1000) := by
  cases hd : isDigitStr d with
  | false => exact .inl ⟨_, exec_chkValid_of_not hd s⟩
  | true =>
    obtain ⟨g, c, rfl, digits, digit⟩ := exists_append_of_isDigitStr hd
    rw [List.dropLast_concat]
    rcases Nat.lt_or_ge 1000 (weightedSum g) with exceeds | inRange
    · exact .inr ⟨exceeds, exec_chkValid_append_of_gt digits digit exceeds s⟩
    · exact .inl ⟨_, exec_chkValid_append_of_le digits digit inRange s⟩

/-- Settles O24: a payload that passes the first check is answered or refused by its weighted sum. -/
theorem chkDigitAnswersTheCheckDigit : Obligations.ChkDigitAnswersTheCheckDigit := fun s _ =>
  ⟨fun hd h => exec_chkDigit_of_le hd h s, fun hne h => exec_chkDigit_of_not hne h s,
    fun hd h => exec_chkDigit_of_gt hd h s⟩

/-- Settles O25: both operations rest on the one check-digit computation of `d`. -/
theorem checksumIsRefusedAboveOneThousand : Obligations.ChecksumIsRefusedAboveOneThousand := by
  intro s d c hd hc
  have digits : d.all isDigit = true := (Bool.and_eq_true_iff.1 hd).2
  constructor
  · intro exceeds
    exact ⟨exec_chkDigit_of_gt hd exceeds s, exec_chkValid_append_of_gt digits hc exceeds s⟩
  · intro inRange
    have oneDigit : (1000 - weightedSum d) % 10 ≤ 9 := by omega
    exact ⟨_, oneDigit, exec_chkDigit_of_le (.inr hd) inRange s, exec_chkValid_append_of_le digits hc inRange s⟩

/-- Settles O26: what is not answered has a sum over 1000 and no next state; the other clauses are the operation's cases. -/
theorem chkValidAnswersThePredicate : Obligations.ChkValidAnswersThePredicate := by
  intro s
  refine ⟨fun d inRange => ?_, fun d t ht => ?_, fun d hd => exec_chkValid_of_not hd s,
    fun d c hd hc inRange => exec_chkValid_append_of_le hd hc inRange s,
    fun d c hd hc exceeds => exec_chkValid_append_of_gt hd hc exceeds s⟩
  · exact (exec_chkValid_cases d s).resolve_right fun ⟨exceeds, _⟩ => inRange.not_gt exceeds
  · rcases exec_chkValid_cases d s with ⟨v, answered⟩ | ⟨-, refused⟩
    · exact ⟨v, Host.Outcome.next.inj (ht.symm.trans answered)⟩
    · cases ht.symm.trans refused

end Sys2Proof.Machine

/-! ### What the three encoders do, check by check (R86 to R95) -/

namespace Sys2Proof.Machine

/-- R88, R89: a decimal operand whose number has to fit `w` bits, `x` being the error where it does not and `rest` what is
done with the number. -/
def afterNumber (operand : Str) (w : Nat) (x : Error) (rest : Nat → Checked Str) : Checked Str := do
  let v ← (do checkWidth (← decimalOperand operand) w x)
  rest v

/-- R86 to R88: the three checks every encoder begins with, `rest` being what it does behind them. -/
def afterSharedChecks (f p : Nat) (cp : Str) (rest : PartitionEntry → Nat → Checked Str) : Checked Str := do
  checkFilter f
  let e ← checkPartition p
  afterNumber cp e.cpw .companyPrefixTooLong (rest e)

/-- R89: the check the two SGTIN encoders make next. -/
def afterItemReference (ir : Str) (pack : PartitionEntry → Nat → Nat → Checked Str) (e : PartitionEntry) (cp : Nat) :
    Checked Str :=
  afterNumber ir e.irw .itemReferenceTooLong (pack e cp)

/-- R90, R91: the serial and the image of ENC.SGTIN96, of numbers that passed their checks. -/
def packSgtin96 (f p : Nat) (ser : Str) (e : PartitionEntry) (cp ir : Nat) : Checked Str := do
  let v ← checkSerial96 ser
  if v = serialBound then throw (.refuse .serialNeeds39Bits)
  return bitsToHex (imageHead 48 f p ++ toBits cp e.cpw ++ toBits ir e.irw ++ toBits v 38)

/-- R92, R93: the same of ENC.SGTIN198. -/
def packSgtin198 (f p : Nat) (ser : Str) (e : PartitionEntry) (cp ir : Nat) : Checked Str := do
  let b ← serialField198 ser
  return bitsToHex (imageHead 54 f p ++ toBits cp e.cpw ++ toBits ir e.irw ++ b)

/-- R94, R95: the same of ENC.SSCC96, which has no item reference. -/
def packSscc96 (f p : Nat) (ext ser : Str) (e : PartitionEntry) (cp : Nat) : Checked Str := do
  let b ← serialRefField p e ext ser
  return bitsToHex (imageHead 49 f p ++ toBits cp e.cpw ++ b ++ zeros 24)

theorem encodeSgtin96_eq (f p : Nat) (cp ir ser : Str) : encodeSgtin96 f p cp ir ser =
    afterSharedChecks f p cp (afterItemReference ir (packSgtin96 f p ser)) := rfl

theorem encodeSgtin198_eq (f p : Nat) (cp ir ser : Str) : encodeSgtin198 f p cp ir ser =
    afterSharedChecks f p cp (afterItemReference ir (packSgtin198 f p ser)) := rfl

theorem encodeSscc96_eq (f p : Nat) (cp ext ser : Str) : encodeSscc96 f p cp ext ser =
    afterSharedChecks f p cp (packSscc96 f p ext ser) := rfl

section
variable {operand : Str} {w : Nat} {x : Error} {rest : Nat → Checked Str}

theorem afterNumber_of_not (hd : isDigitStr operand = false) :
    afterNumber operand w x rest = .error (.refuse .operandNotNumeric) := by
  rw [afterNumber, decimalOperand_of_not hd]
  rfl

theorem afterNumber_of_digits (hd : isDigitStr operand = true) :
    afterNumber operand w x rest = checkWidth (parseDec operand) w x >>= rest := by
  rw [afterNumber, decimalOperand_of_digits hd]
  rfl

theorem afterNumber_of_ge (hd : isDigitStr operand = true) (hge : 2 ^ w ≤ parseDec operand) :
    afterNumber operand w x rest = .error (.raise x) := by
  rw [afterNumber_of_digits hd, checkWidth_of_ge hge]
  rfl

theorem afterNumber_of_lt (hd : isDigitStr operand = true) (hlt : parseDec operand < 2 ^ w) :
    afterNumber operand w x rest = rest (parseDec operand) := by
  rw [afterNumber_of_digits hd, checkWidth_of_lt hlt]
  rfl

/-- A number's check raises its own error, for a number too wide, and else what is behind it has raised. -/
theorem afterNumber_raises {y : Error} (h : afterNumber operand w x rest = .error (.raise y)) :
    (y = x ∧ 2 ^ w ≤ parseDec operand) ∨ rest (parseDec operand) = .error (.raise y) := by
  cases hd : isDigitStr operand with
  | false =>
    rw [afterNumber_of_not hd] at h
    cases h
  | true =>
    rcases Nat.lt_or_ge (parseDec operand) (2 ^ w) with hlt | hge
    · rw [afterNumber_of_lt hd hlt] at h
      exact .inr h
    · rw [afterNumber_of_ge hd hge] at h
      cases h
      exact .inl ⟨rfl, hge⟩

end

section
variable {f p : Nat} {cp : Str} {rest : PartitionEntry → Nat → Checked Str}

theorem afterSharedChecks_of_filter (hf : 7 < f) :
    afterSharedChecks f p cp rest = .error (.raise .filterOutOfRange) := by
  rw [afterSharedChecks, checkFilter_of_gt hf]
  rfl

theorem afterSharedChecks_of_partition (hf : f ≤ 7) (hp : 6 < p) :
    afterSharedChecks f p cp rest = .error (.raise .invalidPartition) := by
  rw [afterSharedChecks, checkFilter_of_le hf, checkPartition_of_none ((partitionEntry_eq_none_iff p).2 hp)]
  rfl

/-- With a legal filter and partition the company field decides. -/
theorem afterSharedChecks_of_entry {e : PartitionEntry} (hf : f ≤ 7) (he : partitionEntry p = some e) :
    afterSharedChecks f p cp rest = afterNumber cp e.cpw .companyPrefixTooLong (rest e) := by
  rw [afterSharedChecks, checkFilter_of_le hf, (checkPartition_ok_iff p e).2 he]
  rfl

/-- Every error the shared checks can end in, with its cause, and else it is an error of what comes behind them. -/
theorem afterSharedChecks_raises {x : Error} (h : afterSharedChecks f p cp rest = .error (.raise x)) :
    (x = .filterOutOfRange ∧ 7 < f) ∨ (x = .invalidPartition ∧ 6 < p) ∨ x = .companyPrefixTooLong ∨
      ∃ e v, rest e v = .error (.raise x) := by
  rcases Nat.lt_or_ge 7 f with hf | hf
  · rw [afterSharedChecks_of_filter hf] at h
    cases h
    exact .inl ⟨rfl, hf⟩
  rcases Nat.lt_or_ge 6 p with hp | hp
  · rw [afterSharedChecks_of_partition hf hp] at h
    cases h
    exact .inr (.inl ⟨rfl, hp⟩)
  obtain ⟨e, he⟩ := exists_partitionEntry hp
  rw [afterSharedChecks_of_entry hf he] at h
  rcases afterNumber_raises h with ⟨own, -⟩ | behind
  · exact .inr (.inr (.inl own))
  · exact .inr (.inr (.inr ⟨e, _, behind⟩))

end

/-- R131: the errors of a serial. -/
def serialErrors : List Error := [.serialNotNumeric, .serialOutOfRange, .serialTooLong]

section
variable {f p : Nat} {ser : Str} {e : PartitionEntry} {cp ir : Nat}

theorem packSgtin96_of_serial_error {x : Stop} (h : checkSerial96 ser = .error x) :
    packSgtin96 f p ser e cp ir = .error x := by
  rw [packSgtin96, h]
  rfl

theorem packSgtin96_of_bound (h : checkSerial96 ser = .ok serialBound) :
    packSgtin96 f p ser e cp ir = .error (.refuse .serialNeeds39Bits) := by
  rw [packSgtin96, h]
  rfl

theorem packSgtin96_of_lt (h : checkSerial96 ser = .ok (parseDec ser)) (hlt : parseDec ser < serialBound) :
    packSgtin96 f p ser e cp ir =
      .ok (bitsToHex (imageHead 48 f p ++ toBits cp e.cpw ++ toBits ir e.irw ++ toBits (parseDec ser) 38)) := by
  simp only [packSgtin96, h, bind, Except.bind, if_neg hlt.ne]
  rfl

theorem packSgtin96_raises {x : Error} (h : packSgtin96 f p ser e cp ir = .error (.raise x)) : x ∈ serialErrors := by
  rcases checkSerial96_cases ser with ⟨-, hle, hs⟩ | ⟨-, -, hs⟩ | ⟨-, -, hs⟩ | ⟨-, -, hs⟩
  · rcases hle.lt_or_eq with hlt | bound
    · rw [packSgtin96_of_lt hs hlt] at h
      cases h
    · rw [packSgtin96_of_bound (bound ▸ hs)] at h
      cases h
  all_goals
    rw [packSgtin96_of_serial_error hs] at h
    cases h
  all_goals decide

theorem packSgtin198_raises {x : Error} (h : packSgtin198 f p ser e cp ir = .error (.raise x)) : x ∈ serialErrors := by
  rcases serialField198_cases ser with ⟨-, hs⟩ | ⟨-, -, hs⟩ | ⟨b, -, -, hs⟩ <;> rw [packSgtin198, hs] at h <;> cases h
  decide

/-- R94: the serial reference of ENC.SSCC96 has no error status. -/
theorem packSscc96_ne_raise (ext : Str) (x : Error) : packSscc96 f p ext ser e cp ≠ .error (.raise x) := by
  intro h
  rcases serialRefField_cases p e ext ser with ⟨-, hs⟩ | ⟨-, -, hs⟩ | ⟨-, -, -, hs⟩ | ⟨-, -, -, hs⟩ <;>
    rw [packSscc96, hs] at h <;> cases h

end

/-- R86 to R89: both SGTIN encoders make the four checks in order, and only a serial's errors are left behind them. -/
theorem sgtinEncoder_checks {f p : Nat} {cp ir ser : Str} {i : Instr}
    (hi : i ∈ [Instr.encSgtin96 f p cp ir ser, .encSgtin198 f p cp ir ser]) :
    ∃ pack, (∀ s, exec i s = answerImage (afterSharedChecks f p cp (afterItemReference ir pack)) s) ∧
      ∀ e v w x, pack e v w = .error (.raise x) → x ∈ serialErrors := by
  rcases List.mem_pair.1 hi with rfl | rfl
  · exact ⟨packSgtin96 f p ser, fun _ => rfl, fun _ _ _ _ => packSgtin96_raises⟩
  · exact ⟨packSgtin198 f p ser, fun _ => rfl, fun _ _ _ _ => packSgtin198_raises⟩

/-- R86 to R88: every encoder makes the three checks in order, and none of their errors is left behind them. -/
theorem encoder_checks {f p : Nat} {cp ref ser : Str} {i : Instr} (hi : i ∈ encoderOps f p cp ref ser) :
    ∃ rest, (∀ s, exec i s = answerImage (afterSharedChecks f p cp rest) s) ∧
      ∀ e v x, rest e v = .error (.raise x) → x ∈ Error.itemReferenceTooLong :: serialErrors := by
  rcases List.mem_append.1 (show i ∈ [_, _] ++ [_] from hi) with sgtin | sscc
  · obtain ⟨pack, hexec, serial⟩ := sgtinEncoder_checks sgtin
    refine ⟨_, hexec, fun e v x h => ?_⟩
    rcases afterNumber_raises h with ⟨rfl, -⟩ | h
    · exact List.mem_cons_self
    · exact List.mem_cons_of_mem _ (serial e v _ x h)
  · obtain rfl := List.mem_singleton.1 sscc
    exact ⟨packSscc96 f p ref ser, fun _ => rfl, fun e v x h => absurd h (packSscc96_ne_raise ref x)⟩

/-- R133: the response tells which error was raised. -/
theorem ofError_injective {x y : Error} (h : Response.ofError x = Response.ofError y) : x = y := by
  cases x <;> cases y <;> cases h <;> rfl

/-- An image operation whose response is that of an error has raised it. -/
theorem raised_of_answerImage {c : Checked Str} {s t : State} {x : Error} (h : answerImage c s = .next t)
    (hx : t.rsp = some (Response.ofError x)) : c = .error (.raise x) := by
  rcases answerImage_next h with ⟨img, -, rfl⟩ | ⟨y, hy, rfl⟩
  · have status := congrArg Response.status (Option.some.inj hx)
    exact absurd status.symm x.status_ne_ok
  · rw [hy, ofError_injective (Option.some.inj hx)]

/-- Settles O27: the filter is checked first, and no later check raises its error. -/
theorem filterIsCheckedFirst : Obligations.FilterIsCheckedFirst := by
  intro s t f p cp ref ser i hi
  obtain ⟨rest, hexec, later⟩ := encoder_checks hi
  rw [hexec s]
  refine ⟨fun hf => answerImage_of_raise (afterSharedChecks_of_filter hf) s, fun hf ht hrsp => ?_⟩
  rcases afterSharedChecks_raises (raised_of_answerImage ht hrsp) with
    ⟨-, high⟩ | ⟨other, -⟩ | other | ⟨e, v, behind⟩
  · omega
  · cases other
  · cases other
  · exact absurd (later e v _ behind) (by decide)

/-- Settles O28: the partition is checked second, and no other check raises its error. -/
theorem partitionIsCheckedSecond : Obligations.PartitionIsCheckedSecond := by
  intro s t f p cp ref ser i hi hf
  obtain ⟨rest, hexec, later⟩ := encoder_checks hi
  rw [hexec s]
  refine ⟨fun hp => answerImage_of_raise (afterSharedChecks_of_partition hf hp) s, fun hp ht hrsp => ?_⟩
  rcases afterSharedChecks_raises (raised_of_answerImage ht hrsp) with
    ⟨other, -⟩ | ⟨-, high⟩ | other | ⟨e, v, behind⟩
  · cases other
  · omega
  · cases other
  · exact absurd (later e v _ behind) (by decide)

/-- Settles O29: with a legal filter and partition the company field decides, by its value. -/
theorem companyPrefixIsCheckedByValue : Obligations.CompanyPrefixIsCheckedByValue := by
  intro s t f p e cp ref ser i hi hf he
  obtain ⟨rest, hexec, later⟩ := encoder_checks hi
  rw [hexec s, afterSharedChecks_of_entry hf he]
  refine ⟨fun hd => answerImage_of_refuse (afterNumber_of_not hd) s,
    fun hd hge => answerImage_of_raise (afterNumber_of_ge hd hge) s, fun hd hlt ht hrsp => ?_⟩
  have behind := raised_of_answerImage ht hrsp
  rw [afterNumber_of_lt hd hlt] at behind
  exact absurd (later e _ _ behind) (by decide)

/-- Settles O30: for the SGTIN encoders the item reference decides next, by its value; ENC.SSCC96 raises nothing there. -/
theorem itemReferenceIsCheckedByValue : Obligations.ItemReferenceIsCheckedByValue := by
  intro s t f p e cp ir ser hf he hcp hcplt
  refine ⟨fun i hi => ?_, fun ht hrsp => ?_⟩
  · obtain ⟨pack, hexec, serial⟩ := sgtinEncoder_checks hi
    rw [hexec s, afterSharedChecks_of_entry hf he, afterNumber_of_lt hcp hcplt]
    refine ⟨fun hd => answerImage_of_refuse (afterNumber_of_not hd) s,
      fun hd hge => answerImage_of_raise (afterNumber_of_ge hd hge) s, fun hd hlt ht hrsp => ?_⟩
    have behind := raised_of_answerImage ht hrsp
    rw [afterItemReference, afterNumber_of_lt hd hlt] at behind
    exact absurd (serial e _ _ _ behind) (by decide)
  · have behind := raised_of_answerImage (c := encodeSscc96 f p cp ir ser) ht hrsp
    rw [encodeSscc96_eq, afterSharedChecks_of_entry hf he, afterNumber_of_lt hcp hcplt] at behind
    exact packSscc96_ne_raise ir _ behind

end Sys2Proof.Machine

/-! ### The serial of ENC.SGTIN96 (R90, R91) -/

namespace Sys2Proof.Machine

/-- R86 to R89: operands that pass the shared validation leave the serial to decide. -/
theorem afterSharedChecks_of_passes {f p : Nat} {e : PartitionEntry} {cp ir : Str}
    (hpass : PassesSharedChecks f p e cp ir) (pack : PartitionEntry → Nat → Nat → Checked Str) :
    afterSharedChecks f p cp (afterItemReference ir pack) = pack e (parseDec cp) (parseDec ir) := by
  obtain ⟨⟨hf, he⟩, ⟨hcp, hcplt⟩, hir, hirlt⟩ := hpass
  rw [afterSharedChecks_of_entry hf he, afterNumber_of_lt hcp hcplt, afterItemReference, afterNumber_of_lt hir hirlt]

theorem checkSerial96_of_digits {s : Str} (h : isDigitStr s = true) : checkSerial96 s =
    if 2 ^ 38 < parseDec s then .error (.raise .serialOutOfRange) else .ok (parseDec s) := by
  rw [checkSerial96, if_pos h]
  rfl

theorem checkSerial96_of_not {s : Str} (h : isDigitStr s = false) : checkSerial96 s =
    if isSignedDigitStr s then .error (.refuse .signedSerial) else .error (.raise .serialNotNumeric) := by
  rw [checkSerial96, h, if_neg Bool.false_ne_true]

/-- R90, U8: a signed string is a sign followed by a digit string. -/
theorem isSignedDigitStr_iff (s : Str) : isSignedDigitStr s = true ↔
    ∃ digits, isDigitStr digits = true ∧ (s = 43#8 :: digits ∨ s = 45#8 :: digits) := by
  cases s with
  | nil => simp [isSignedDigitStr]
  | cons c cs => simp [isSignedDigitStr, or_and_right, exists_or, and_assoc, and_comm]

/-- R56: a sign is no digit. -/
theorem isDigitStr_of_isSignedDigitStr {s : Str} (h : isSignedDigitStr s = true) : isDigitStr s = false := by
  obtain ⟨digits, -, rfl | rfl⟩ := (isSignedDigitStr_iff s).1 h <;> rfl

/-- Settles O31: with the shared checks passed the serial's own check decides, and then whether it is the bound. -/
theorem serialOfSgtin96IsCheckedLast : Obligations.SerialOfSgtin96IsCheckedLast := by
  intro s f p e cp ir ser hpass
  have last : exec (.encSgtin96 f p cp ir ser) s =
      answerImage (packSgtin96 f p ser e (parseDec cp) (parseDec ir)) s :=
    congrArg (answerImage · s) (afterSharedChecks_of_passes hpass _)
  rw [last]
  refine ⟨fun hd hgt => ?_, fun hd hlt => ?_, fun hd heq => ?_, fun digits hdigits hsigned => ?_, fun hd hunsigned => ?_⟩
  · refine answerImage_of_raise (packSgtin96_of_serial_error ?_) s
    rw [checkSerial96_of_digits hd, if_pos hgt]
  · refine ⟨_, answerImage_of_ok (packSgtin96_of_lt ?_ hlt) s⟩
    rw [checkSerial96_of_digits hd, if_neg hlt.not_gt]
  · refine answerImage_of_refuse (packSgtin96_of_bound ?_) s
    rw [checkSerial96_of_digits hd, heq]
    rfl
  · have signed : isSignedDigitStr ser = true := (isSignedDigitStr_iff ser).2 ⟨digits, hdigits, hsigned⟩
    refine answerImage_of_refuse (packSgtin96_of_serial_error ?_) s
    rw [checkSerial96_of_not (isDigitStr_of_isSignedDigitStr signed), if_pos signed]
  · have unsigned : ¬ isSignedDigitStr ser = true := by
      rw [isSignedDigitStr_iff]
      rintro ⟨digits, hdigits, hsigned⟩
      exact hsigned.elim (hunsigned digits hdigits).1 (hunsigned digits hdigits).2
    refine answerImage_of_raise (packSgtin96_of_serial_error ?_) s
    rw [checkSerial96_of_not hd, if_neg unsigned]

/-- Settles O32: the encoder's image is that of its packed fields. -/
theorem encSgtin96PacksTheImage : Obligations.EncSgtin96PacksTheImage :=
  fun s _ _ _ _ _ _ hpass hd hlt => answerImage_of_ok (encodeSgtin96_of_passes hpass hd hlt) s

/-! ### The serial of ENC.SGTIN198 (R70, R73, R92, R93) -/

/-- R73: only characters of code below 128 are packed. -/
theorem toNat_lt_of_encode7bit {s : Str} {b : BitSeq} (h : encode7bit s = some b) : ∀ c ∈ s, c.toNat < 128 := by
  induction s generalizing b with
  | nil => exact List.forall_mem_nil _
  | cons c cs ih =>
    obtain ⟨hc, d, hd, -⟩ := (encode7bit_cons_eq_some_iff c cs b).1 h
    exact List.forall_mem_cons.2 ⟨hc, ih hd⟩

theorem encode7bit_eq_none {s : Str} (h : ∃ c ∈ s, 128 ≤ c.toNat) : encode7bit s = none := by
  obtain ⟨c, hc, wide⟩ := h
  exact Option.eq_none_iff_forall_ne_some.2 fun b hb => (toNat_lt_of_encode7bit hb c hc).not_ge wide

/-- R70: the characters' 7-bit codes in order. -/
theorem encode7bit_eq_some {s : Str} (h : ∀ c ∈ s, c.toNat < 128) :
    encode7bit s = some (s.flatMap fun c => toBits c.toNat 7) := by
  induction s with
  | nil => rfl
  | cons c cs ih =>
    obtain ⟨hc, hcs⟩ := List.forall_mem_cons.1 h
    exact (encode7bit_cons_eq_some_iff c cs _).2 ⟨hc, _, ih hcs, rfl⟩

theorem serialField198_of_gt {s : Str} (h : 20 < s.length) : serialField198 s = .error (.raise .serialTooLong) := by
  rw [serialField198, if_pos h]

theorem serialField198_of_none {s : Str} (hl : s.length ≤ 20) (h : encode7bit s = none) :
    serialField198 s = .error (.refuse .charNot7Bit) := by
  rw [serialField198, if_neg hl.not_gt, h]

theorem serialField198_of_some {s : Str} {b : BitSeq} (hl : s.length ≤ 20) (h : encode7bit s = some b) :
    serialField198 s = .ok (b ++ zeros (140 - 7 * s.length)) := by
  rw [serialField198, if_neg hl.not_gt, h, ← encode7bit_length h]
  rfl

section
variable {f p : Nat} {ser : Str} {e : PartitionEntry} {cp ir : Nat}

theorem packSgtin198_of_error {x : Stop} (h : serialField198 ser = .error x) :
    packSgtin198 f p ser e cp ir = .error x := by
  rw [packSgtin198, h]
  rfl

theorem packSgtin198_of_ok {b z : BitSeq} (h : serialField198 ser = .ok (b ++ z)) :
    packSgtin198 f p ser e cp ir =
      .ok (bitsToHex (imageHead 54 f p ++ toBits cp e.cpw ++ toBits ir e.irw ++ b ++ z)) := by
  rw [packSgtin198, h, List.append_assoc _ b z]
  rfl

end

/-- Settles O34: with the shared checks passed the serial's length decides, then its characters. -/
theorem encSgtin198PacksTheImage : Obligations.EncSgtin198PacksTheImage := by
  intro s f p e cp ir ser hpass
  have last : exec (.encSgtin198 f p cp ir ser) s =
      answerImage (packSgtin198 f p ser e (parseDec cp) (parseDec ir)) s :=
    congrArg (answerImage · s) (afterSharedChecks_of_passes hpass _)
  rw [last]
  refine ⟨fun long => ?_, fun short wide => ?_, fun short narrow => ?_⟩
  · exact answerImage_of_raise (packSgtin198_of_error (serialField198_of_gt long)) s
  · exact answerImage_of_refuse (packSgtin198_of_error (serialField198_of_none short (encode7bit_eq_none wide))) s
  · exact answerImage_of_ok (packSgtin198_of_ok (serialField198_of_some short (encode7bit_eq_some narrow))) s

/-! ### The serial reference of ENC.SSCC96 (R94, R95) -/

section
variable {f p : Nat} {e : PartitionEntry} {ext ser : Str} {cp : Nat}

theorem serialRefField_of_extension (hext : ext.length ≠ 1) :
    serialRefField p e ext ser = .error (.refuse .extensionNotOneChar) := by
  rw [serialRefField, if_pos hext]
  rfl

theorem serialRefField_of_not (hext : ext.length = 1) (hd : isDigitStr (ext ++ padLeftDigits ser (srpad p)) = false) :
    serialRefField p e ext ser = .error (.refuse .operandNotNumeric) := by
  rw [serialRefField, if_neg (not_not.2 hext), decimalOperand_of_not hd]
  rfl

theorem serialRefField_of_ge (hext : ext.length = 1) (hd : isDigitStr (ext ++ padLeftDigits ser (srpad p)) = true)
    (hge : 2 ^ e.srw ≤ parseDec (ext ++ padLeftDigits ser (srpad p))) :
    serialRefField p e ext ser = .error (.refuse .serialReferenceOverflow) := by
  rw [serialRefField, if_neg (not_not.2 hext), decimalOperand_of_digits hd]
  exact if_pos hge

theorem packSscc96_of_error {x : Stop} (h : serialRefField p e ext ser = .error x) :
    packSscc96 f p ext ser e cp = .error x := by
  rw [packSscc96, h]
  rfl

end

/-- Settles O35: with the shared checks passed the extension's length decides, then the digits, then the number. -/
theorem encSscc96PacksTheImage : Obligations.EncSscc96PacksTheImage := by
  intro s f p e cp ext ser hf he hcp hcplt
  have last : exec (.encSscc96 f p cp ext ser) s = answerImage (packSscc96 f p ext ser e (parseDec cp)) s := by
    refine congrArg (answerImage · s) ?_
    rw [encodeSscc96_eq, afterSharedChecks_of_entry hf he, afterNumber_of_lt hcp hcplt]
  have refused {x : Refusal} (h : serialRefField p e ext ser = .error (.refuse x)) :
      exec (.encSscc96 f p cp ext ser) s = .refused x := by
    rw [last]
    exact answerImage_of_refuse (packSscc96_of_error h) s
  exact ⟨fun hext => refused (serialRefField_of_extension hext), fun hext hd => refused (serialRefField_of_not hext hd),
    fun hext hd hge => refused (serialRefField_of_ge hext hd hge),
    fun hext hd hlt => answerImage_of_ok (encodeSscc96_of_passes hf he hcp hcplt ⟨hext, hd, hlt⟩) s⟩

end Sys2Proof.Machine

/-! ### Images of the four operations (R98) -/

namespace Sys2Proof.Machine

/-- R98: a sound image's length follows from its first two characters. -/
theorem imageWf_length {h : Str} (hwf : imageWf h = true) :
    h.all isUpperHex = true ∧ (h.take 2 = str "36" → h.length = 50) ∧ (h.take 2 ≠ str "36" → h.length = 24) := by
  simp only [imageWf, Bool.and_eq_true, Bool.or_eq_true, beq_iff_eq] at hwf
  obtain ⟨upper, ⟨length, start⟩ | ⟨length, start⟩⟩ := hwf
  · refine ⟨upper, fun other => ?_, fun _ => length⟩
    rw [other] at start
    exact absurd start (by decide)
  · exact ⟨upper, fun _ => length, absurd start⟩

theorem encodeSgtin96_take {f p : Nat} {cp ir ser img : Str} (h : encodeSgtin96 f p cp ir ser = .ok img) :
    img.take 2 = str "30" := by
  obtain ⟨e, -, -, -, -, -, -, -, -, rfl⟩ := encodeSgtin96_ok h
  rw [List.append_assoc, List.append_assoc]
  exact bitsToHex_imageHead_take (header := 48#8)

theorem encodeSgtin198_take {f p : Nat} {cp ir ser img : Str} (h : encodeSgtin198 f p cp ir ser = .ok img) :
    img.take 2 = str "36" := by
  obtain ⟨e, b, -, -, -, -, -, -, -, -, rfl⟩ := encodeSgtin198_ok h
  rw [List.append_assoc, List.append_assoc]
  exact bitsToHex_imageHead_take (header := 54#8)

theorem encodeSscc96_take {f p : Nat} {cp ext ser img : Str} (h : encodeSscc96 f p cp ext ser = .ok img) :
    img.take 2 = str "31" := by
  obtain ⟨e, -, -, -, -, -, -, -, rfl⟩ := encodeSscc96_ok h
  rw [List.append_assoc, List.append_assoc]
  exact bitsToHex_imageHead_take (header := 49#8)

theorem reserialize_take {image ser img : Str} (h : reserialize image ser = .ok img) : img.take 2 = str "30" := by
  obtain ⟨t, ir, -, -, henc⟩ := reserialize_ok h
  exact encodeSgtin96_take henc

/-- R98: an image operation whose images are sound and begin with `start` outputs one exactly with status OK. -/
theorem answerImage_whole {c : Checked Str} {start : Str} {n : Nat} {s t : State} {r : Response}
    (hwf : ∀ img, c = .ok img → imageWf img = true) (htake : ∀ img, c = .ok img → img.take 2 = start)
    (hn : n = if start = str "36" then 50 else 24) (hr : t.rsp = some r) (ht : answerImage c s = .next t) :
    (r.status = .ok ↔ r.image.isSome = true) ∧
      ∀ h, r.image = some h → h.length = n ∧ h.take 2 = start ∧ h.all isUpperHex = true := by
  rcases answerImage_next ht with ⟨img, himg, rfl⟩ | ⟨x, -, rfl⟩ <;> cases hr
  · refine ⟨iff_of_true rfl rfl, fun h hh => ?_⟩
    cases hh
    obtain ⟨upper, long, short⟩ := imageWf_length (hwf img himg)
    have take := htake img himg
    rw [take] at long short
    refine ⟨?_, take, upper⟩
    by_cases hs : start = str "36"
    · rw [hn, if_pos hs, long hs]
    · rw [hn, if_neg hs, short hs]
  · exact ⟨iff_of_false x.status_ne_ok Bool.false_ne_true, fun h hh => nomatch hh⟩

/-- Settles O37: each operation's images are sound and begin with its header. -/
theorem encodersEmitWholeImages : Obligations.EncodersEmitWholeImages := fun _ _ _ hr =>
  ⟨fun _ _ _ _ _ => answerImage_whole (fun _ => encodeSgtin96_imageWf) (fun _ => encodeSgtin96_take) rfl hr,
    fun _ _ _ _ _ => answerImage_whole (fun _ => encodeSgtin198_imageWf) (fun _ => encodeSgtin198_take) rfl hr,
    fun _ _ _ _ _ => answerImage_whole (fun _ => encodeSscc96_imageWf) (fun _ => encodeSscc96_take) rfl hr,
    fun _ _ => answerImage_whole (fun _ => reserialize_imageWf) (fun _ => reserialize_take) rfl hr⟩

/-! ### Leading zeros (R56, R88, R90) -/

/-- R53, R56: a digit string padded with zeros is a digit string. -/
theorem isDigitStr_padLeftDigits {s : Str} (h : isDigitStr s = true) (width : Nat) :
    isDigitStr (padLeftDigits s width) = true := by
  obtain ⟨nonempty, digits⟩ := Bool.and_eq_true_iff.1 h
  have zero : isDigit 48#8 = true := by decide
  have stillNonempty : (padLeftDigits s width).isEmpty = false := by
    simpa [padLeftDigits, padLeft] using fun _ => nonempty
  have stillDigits : (padLeftDigits s width).all isDigit = true := by
    simp [padLeftDigits, padLeft, digits, zero, -List.all_eq_true]
  rw [isDigitStr, stillNonempty, stillDigits]
  rfl

/-- Any number of zeros in front is a padding. -/
theorem replicate_append_eq_padLeftDigits (n : Nat) (s : Str) :
    List.replicate n 48#8 ++ s = padLeftDigits s (n + s.length) := by
  rw [padLeftDigits, padLeft, Nat.add_sub_cancel]

section
variable {s s' : Str} (hs : isDigitStr s = true) (hs' : isDigitStr s' = true) (h : parseDec s = parseDec s')
include hs hs' h

theorem decimalOperand_congr : decimalOperand s = decimalOperand s' := by
  rw [decimalOperand_of_digits hs, decimalOperand_of_digits hs', h]

theorem checkSerial96_congr : checkSerial96 s = checkSerial96 s' := by
  rw [checkSerial96_of_digits hs, checkSerial96_of_digits hs', h]

end

/-- R88 to R90: of digit strings ENC.SGTIN96 sees the numbers only. -/
theorem encodeSgtin96_congr {f p : Nat} {cp cp' ir ir' ser ser' : Str}
    (hcp : decimalOperand cp = decimalOperand cp') (hir : decimalOperand ir = decimalOperand ir')
    (hser : checkSerial96 ser = checkSerial96 ser') : encodeSgtin96 f p cp ir ser = encodeSgtin96 f p cp' ir' ser' := by
  simp only [encodeSgtin96, checkCompanyPrefix, checkItemReference, hcp, hir, hser]

/-- Settles O38: an operand with zeros in front is a digit string of the same number. -/
theorem leadingZerosChangeNoSgtin96Response : Obligations.LeadingZerosChangeNoSgtin96Response := by
  intro s f p a b c cp ir ser hcp hir hser
  simp only [replicate_append_eq_padLeftDigits]
  exact congrArg (answerImage · s) <| encodeSgtin96_congr
    (decimalOperand_congr (isDigitStr_padLeftDigits hcp _) hcp (parseDec_padLeftDigits ..))
    (decimalOperand_congr (isDigitStr_padLeftDigits hir _) hir (parseDec_padLeftDigits ..))
    (checkSerial96_congr (isDigitStr_padLeftDigits hser _) hser (parseDec_padLeftDigits ..))

/-! ### Re-encoding with another serial (R96) -/

theorem reserialize_of_decodeTag_error {h : Str} {x : Stop} (hd : decodeTag h = .error x) (ser : Str) :
    reserialize h ser = .error x := by
  rw [reserialize, hd]
  rfl

theorem reserialize_of_other {h : Str} {t : DecodedTag} (hd : decodeTag h = .ok t) (ht : t.header ≠ 48) (ser : Str) :
    reserialize h ser = .error (.refuse .reserializeNotSgtin96) := by
  rw [reserialize, hd]
  exact if_pos ht

/-- R109, R110: a rendered field is a digit string of a number that fits. -/
theorem digits_of_renderedWf {s : Str} {w n : Nat} (h : renderedWf s w n = true) :
    isDigitStr s = true ∧ parseDec s < 2 ^ w := by
  rw [renderedWf, Bool.and_eq_true, beq_iff_eq, decide_eq_true_eq] at h
  obtain ⟨hs, hlt⟩ := h
  refine ⟨?_, hlt⟩
  rw [hs]
  exact isDigitStr_padLeftDigits (isDigitStr_dec _) n

/-- R117: the fields of a decoded SGTIN-96 map pass the checks of its encoder. -/
theorem passesSharedChecks_of_decodeTag {h : Str} {t : DecodedTag} (hd : decodeTag h = .ok t) (ht : t.header = 48) :
    ∃ e ir, t.itemReference = some ir ∧
      PassesSharedChecks (parseDec t.filter) t.partition e t.companyPrefix ir := by
  have wf := decodeTag_wf hd
  unfold DecodedTag.wf at wf
  cases he : partitionEntry t.partition with
  | none => simp [he] at wf
  | some e =>
    cases hv : t.variant with
    | sgtin96 =>
      simp only [he, hv, Bool.and_eq_true, Option.any_eq_true] at wf
      obtain ⟨⟨⟨⟨hf, hcp⟩, -⟩, -⟩, ⟨⟨⟨-, ir, hsome, hir⟩, -⟩, -⟩, -⟩ := wf
      exact ⟨e, ir, hsome, ⟨Nat.le_of_lt_succ (digits_of_renderedWf hf).2, he⟩, digits_of_renderedWf hcp,
        digits_of_renderedWf hir⟩
    | _ => simp [he, hv, ht] at wf

theorem reserialize_of_sgtin96 {h ir : Str} {t : DecodedTag} (hd : decodeTag h = .ok t) (ht : t.header = 48)
    (hir : t.itemReference = some ir) (ser : Str) :
    reserialize h ser = encodeSgtin96 (parseDec t.filter) t.partition t.companyPrefix ir ser := by
  rw [reserialize, hd]
  simp only [bind, Except.bind, ht, hir, ne_eq, not_true_eq_false, if_false]

/-- R90, R91: a serial that is no digit string, or not below 2^38, ends in the same way behind any other operands. -/
theorem packSgtin96_of_bad_serial {ser : Str} (h : isDigitStr ser = false ∨ 2 ^ 38 ≤ parseDec ser) :
    ∃ x, ∀ f p e cp ir, packSgtin96 f p ser e cp ir = .error x := by
  rcases checkSerial96_cases ser with ⟨hd, hle, hs⟩ | ⟨-, -, hs⟩ | ⟨-, -, hs⟩ | ⟨-, -, hs⟩
  · have bound : parseDec ser = serialBound :=
      h.elim (fun hn => absurd (hd.symm.trans hn) (by decide)) hle.antisymm
    exact ⟨_, fun _ _ _ _ _ => packSgtin96_of_bound (bound ▸ hs)⟩
  all_goals exact ⟨_, fun _ _ _ _ _ => packSgtin96_of_serial_error hs⟩

/-- R22, R55: a field packed again is its bits. -/
theorem toBits_takeBits {b : BitSeq} {off w : Nat} (h : off + w ≤ b.length) :
    toBits (bitsToUnsigned (takeBits b off w)) w = takeBits b off w := by
  simpa only [takeBits_length b off w h] using toBits_bitsToUnsigned (takeBits b off w)

/-- R23: a field behind the first bits continues them. -/
theorem take_append_takeBits (b : BitSeq) (off w : Nat) : b.take off ++ takeBits b off w = b.take (off + w) :=
  List.take_add.symm

/-- R115: a decode of an image whose header and partition resolve reads the company field next, and dispatches. -/
theorem decodeTag_of_imageIs {v : EncodingVariant} {h : Str} {b : BitSeq} {p : Nat} {e : PartitionEntry}
    (hi : ImageIs v h b p e) (hl : 14 + e.cpw ≤ b.length) :
    decodeTag h = readItemReference v b (14 + e.cpw) e.irw >>= fun ir =>
      decodeRest v b e (bitsToUnsigned (takeBits b 8 3)) p (bitsToUnsigned (takeBits b 14 e.cpw)) ir (14 + e.cpw) := by
  obtain ⟨hb, hv, rfl, he⟩ := hi
  have header : resolveHeader (bitsToUnsigned (takeBits b 0 8)) = .ok v := by rw [resolveHeader, hv]
  have entry : resolvePartition (bitsToUnsigned (takeBits b 11 3)) = .ok e := by rw [resolvePartition, he]
  simp (disch := omega) only [decodeTag, hb, readNumber_of_le, header, entry, bind, Except.bind]

/-- R111, R117: DEC on an SGTIN-96 image of 96 bits. -/
theorem decodeTag_of_sgtin96 {h : Str} {b : BitSeq} {p : Nat} {e : PartitionEntry} (hi : ImageIs .sgtin96 h b p e)
    (hl : b.length = 96) :
    decodeTag h = .ok (sgtin96Tag p (bitsToUnsigned (takeBits b 8 3)) (bitsToUnsigned (takeBits b 14 e.cpw))
      (bitsToUnsigned (takeBits b (14 + e.cpw) e.irw)) (bitsToUnsigned (b.drop 58))) := by
  have ⟨_, _, _, he⟩ := hi
  have widths := (partitionEntry_widths he).1
  have reference : 14 + e.cpw + e.irw = 58 := by omega
  have read : readItemReference .sgtin96 b (14 + e.cpw) e.irw = .ok (bitsToUnsigned (takeBits b (14 + e.cpw) e.irw)) :=
    readNumber_of_le (by omega)
  rw [decodeTag_of_imageIs hi (by omega), read]
  simp only [bind, Except.bind, decodeRest, reference, hl]
  rfl

/-- R26, R96: the fields of an SGTIN-96 image before its serial, packed again, are its first 58 bits. -/
theorem take_58_eq_fields {h : Str} {b : BitSeq} {p : Nat} {e : PartitionEntry} (hi : ImageIs .sgtin96 h b p e)
    (hl : b.length = 96) :
    imageHead 48 (bitsToUnsigned (takeBits b 8 3)) p ++ toBits (bitsToUnsigned (takeBits b 14 e.cpw)) e.cpw ++
      toBits (bitsToUnsigned (takeBits b (14 + e.cpw) e.irw)) e.irw = b.take 58 := by
  obtain ⟨-, hv, rfl, he⟩ := hi
  have widths := (partitionEntry_widths he).1
  have reference : 14 + e.cpw + e.irw = 58 := by omega
  have header : 48 = bitsToUnsigned (takeBits b 0 8) := (eq_headerByte_of_headerTable hv).symm
  rw [imageHead, header, ← reference]
  simp (disch := omega) only [toBits_takeBits]
  rw [← take_append_takeBits, ← take_append_takeBits, ← take_append_takeBits b 11 3, ← take_append_takeBits b 8 3]
  rfl

/-- Settles O39: the decoded fields are packed again in front of the new serial. -/
theorem reserializeReplacesTheSerial : Obligations.ReserializeReplacesTheSerial := by
  intro s h ser b p e hi hl hd hlt
  have decoded := decodeTag_of_sgtin96 hi hl
  obtain ⟨e', ir, hir, hpass⟩ := passesSharedChecks_of_decodeTag decoded rfl
  have encoded := (reserialize_of_sgtin96 decoded rfl hir ser).trans (encodeSgtin96_of_passes hpass hd hlt)
  have ⟨_, _, _, he⟩ := hi
  have ⟨⟨_, he'⟩, _⟩ := hpass
  obtain rfl : e' = e := Option.some.inj (he'.symm.trans he)
  obtain rfl := Option.some.inj hir
  simp only [sgtin96Tag, rendered, parseDec_padLeftDigits, parseDec_dec] at encoded
  rw [take_58_eq_fields hi hl] at encoded
  exact answerImage_of_ok encoded s

/-- An error answered by DEC is the decode's. -/
theorem decodeTag_of_execDec_error {h : Str} {s : State} {x : Error}
    (hx : execDec h s = .next (s.respond (Response.ofError x))) : decodeTag h = .error (.raise x) := by
  rcases execDec_next hx with ⟨t, -, ht⟩ | ⟨y, hy, ht⟩ <;> have rsp := Option.some.inj (congrArg State.rsp ht)
  · exact absurd (congrArg Response.status rsp) x.status_ne_ok
  · rw [hy, ofError_injective rsp]

/-- A field map answered by DEC is the decode's. -/
theorem decodeTag_of_execDec_tag {h : Str} {s : State} {t : DecodedTag}
    (ht : execDec h s = .next (s.respond (Response.ofTag t))) : decodeTag h = .ok t := by
  rcases execDec_next ht with ⟨u, hu, hs⟩ | ⟨y, -, hs⟩ <;> have rsp := Option.some.inj (congrArg State.rsp hs)
  · rw [hu, Option.some.inj (congrArg Response.tag rsp)]
  · exact absurd (congrArg Response.status rsp).symm y.status_ne_ok

theorem decodeTag_of_execDec_refused {h : Str} {s : State} {x : Refusal} (hx : execDec h s = .refused x) :
    decodeTag h = .error (.refuse x) := by
  have refused := finish_refused hx
  cases hd : decodeTag h with
  | ok t => rw [hd] at refused; cases refused
  | error y => rw [hd] at refused; cases refused; rfl

/-- Settles O40: the decode ends first, then the header decides, then the serial as behind any other operands. -/
theorem reserializeErrorsInOrder : Obligations.ReserializeErrorsInOrder := by
  intro s h ser
  refine ⟨fun x hx => ?_, fun x hx => ?_, fun t ht => ⟨fun other => ?_, fun hh f p e cp ir hpass bad => ?_⟩⟩
  · exact answerImage_of_raise (reserialize_of_decodeTag_error (decodeTag_of_execDec_error hx) ser) s
  · exact answerImage_of_refuse (reserialize_of_decodeTag_error (decodeTag_of_execDec_refused hx) ser) s
  · exact answerImage_of_refuse (reserialize_of_other (decodeTag_of_execDec_tag ht) other ser) s
  · have decoded := decodeTag_of_execDec_tag ht
    obtain ⟨e', ir', hir, hpass'⟩ := passesSharedChecks_of_decodeTag decoded hh
    obtain ⟨x, hx⟩ := packSgtin96_of_bad_serial bad
    refine congrArg (answerImage · s) ?_
    calc reserialize h ser
        = encodeSgtin96 (parseDec t.filter) t.partition t.companyPrefix ir' ser :=
          reserialize_of_sgtin96 decoded hh hir ser
      _ = .error x := by rw [encodeSgtin96_eq, afterSharedChecks_of_passes hpass', hx]
      _ = encodeSgtin96 f p cp ir ser := by rw [encodeSgtin96_eq, afterSharedChecks_of_passes hpass, hx]

end Sys2Proof.Machine

/-! ### Digit strings that a decode gives back (R53, R56, R57, R118) -/

namespace Sys2Proof

theorem all_isDigit_of_isDigitStr {s : Str} (h : isDigitStr s = true) : s.all isDigit = true :=
  (Bool.and_eq_true_iff.1 h).2

/-- R56: a digit is known by its value. -/
theorem digitVal_injective {c d : Chr} (hc : isDigit c = true) (hd : isDigit d = true)
    (h : digitVal c = digitVal d) : c = d := by
  simp only [isDigit, Bool.and_eq_true, decide_eq_true_eq] at hc hd
  rw [digitVal, digitVal] at h
  exact BitVec.eq_of_toNat_eq (by omega)

/-- R56: among the digit strings of one length, a string is known by its value. -/
theorem eq_of_parseDec_eq {s z : Str} (hs : s.all isDigit = true) (hz : z.all isDigit = true)
    (hl : s.length = z.length) (h : parseDec s = parseDec z) : s = z := by
  induction s using List.reverseRecOn generalizing z with
  | nil => exact (List.eq_nil_of_length_eq_zero hl.symm).symm
  | append_singleton s c ih =>
    cases z using List.reverseRecOn with
    | nil => simp at hl
    | append_singleton z d =>
      rw [List.all_append, Bool.and_eq_true, List.all_cons, List.all_nil, Bool.and_true] at hs hz
      rw [parseDec_append_singleton, parseDec_append_singleton] at h
      have hc : digitVal c < 10 := digitVal_lt_of_isDigit hs.2
      have hd : digitVal d < 10 := digitVal_lt_of_isDigit hz.2
      have front : s = z := ih hs.1 hz.1 (by simpa using hl) (by omega)
      have last : c = d := digitVal_injective hs.2 hz.2 (by omega)
      rw [front, last]

/-- R57: the rendering of a digit string's value, padded to the string's length, is the string. -/
theorem padLeftDigits_dec_parseDec {s : Str} (h : isDigitStr s = true) :
    padLeftDigits (dec (parseDec s)) s.length = s := by
  refine eq_of_parseDec_eq (all_isDigit_of_isDigitStr (Machine.isDigitStr_padLeftDigits (isDigitStr_dec _) _))
    (all_isDigit_of_isDigitStr h) ?_ (by simp)
  rw [padLeftDigits, padLeft_length, max_eq_left (dec_parseDec_length_le h)]

/-- R57: a digit string without a leading zero is the rendering of its value. -/
theorem dec_parseDec {s : Str} (h : isDigitStr s = true) (hhead : s.head? ≠ some 48#8) : dec (parseDec s) = s := by
  have back := padLeftDigits_dec_parseDec h
  rw [padLeftDigits, padLeft] at back
  cases missing : s.length - (dec (parseDec s)).length with
  | zero => rwa [missing] at back
  | succ k =>
    rw [missing] at back
    exact absurd (congrArg List.head? back).symm hhead

end Sys2Proof

namespace Sys2Proof.Machine

/-- R118: a string of the nominal length, or a longer one without a leading zero, comes back as it is. -/
theorem rendered_parseDec {s : Str} {n : Nat} (h : isDigitStr s = true)
    (hn : s.length = n ∨ n < s.length ∧ s.head? ≠ some 48#8) : rendered (parseDec s) n = s := by
  rcases hn with rfl | ⟨long, hhead⟩
  · exact padLeftDigits_dec_parseDec h
  · rw [rendered, dec_parseDec h hhead]
    exact padLeft_of_length_le _ _ _ long.le

@[simp] theorem parseDec_rendered (v n : Nat) : parseDec (rendered v n) = v := by simp [rendered]

/-! ### The fields of an image read back (R23, R26) -/

/-- R23, R26: `b` holds these numbers in the fields the decoder reads, a company field of `c` bits and a reference of
`r`, and `rest` behind them. -/
structure HoldsFields (b : BitSeq) (header filter partition c companyPrefix r reference : Nat) (rest : BitSeq) :
    Prop where
  length : b.length = 14 + c + r + rest.length
  header : bitsToUnsigned (takeBits b 0 8) = header
  filter : bitsToUnsigned (takeBits b 8 3) = filter
  partition : bitsToUnsigned (takeBits b 11 3) = partition
  companyPrefix : bitsToUnsigned (takeBits b 14 c) = companyPrefix
  reference : bitsToUnsigned (takeBits b (14 + c) r) = reference
  rest : b.drop (14 + c + r) = rest

/-- R33, R34, R35: an image the encoder packs is that of a row's fields. -/
theorem image_eq_sgtinBits {header f cp c ref r : Nat} (hh : header < 2 ^ 8) (hf : f < 2 ^ 3) (hcp : cp < 2 ^ c)
    (href : ref < 2 ^ r) (p : Nat) (rest : BitSeq) :
    imageHead header f p ++ toBits cp c ++ toBits ref r ++ rest =
      sgtinBits (BitVec.ofNat 8 header).toNat p (BitVec.ofNat 3 f) (BitVec.ofNat c cp) (BitVec.ofNat r ref) rest := by
  simp only [imageHead, sgtinBits, BitVec.toNat_ofNat, Nat.mod_eq_of_lt, hh, hf, hcp, href, List.append_assoc]

/-- R23, R26: what the encoder packs stands where the decoder reads it. -/
theorem holdsFields_image {header f p cp c ref r : Nat} (hh : header < 2 ^ 8) (hf : f < 2 ^ 3) (hp : p ≤ 6)
    (hcp : cp < 2 ^ c) (href : ref < 2 ^ r) (rest : BitSeq) :
    HoldsFields (imageHead header f p ++ toBits cp c ++ toBits ref r ++ rest) header f p c cp r ref rest := by
  rw [image_eq_sgtinBits hh hf hcp href]
  constructor
  case length => exact sgtinBits_length hp ..
  case header => rw [← field_toNat, field_sgtinBits_header hp, BitVec.toNat_ofNat, Nat.mod_eq_of_lt hh]
  case filter => rw [← field_toNat, field_sgtinBits_filter hp, BitVec.toNat_ofNat, Nat.mod_eq_of_lt hf]
  case partition => rw [← field_toNat, field_sgtinBits_partition hp]
  case companyPrefix => rw [← field_toNat, field_sgtinBits_companyPrefix hp, BitVec.toNat_ofNat, Nat.mod_eq_of_lt hcp]
  case reference => rw [← field_toNat, field_sgtinBits_reference hp, BitVec.toNat_ofNat, Nat.mod_eq_of_lt href]
  case rest => exact sgtinBits_drop hp ..

/-! ### A decode, case by case (R105 to R116) -/

theorem le_six_of_partitionEntry {p : Nat} {e : PartitionEntry} (h : partitionEntry p = some e) : p ≤ 6 :=
  Nat.le_of_not_lt fun large => by simp [(partitionEntry_eq_none_iff p).2 large] at h

/-- R67: the reference digits of a row of the table. -/
theorem reference_digits {p : Nat} {e : PartitionEntry} (h : partitionEntry p = some e) :
    ird p = 1 + p ∧ srd p = 5 + p := by
  have inTable := le_six_of_partitionEntry h
  exact ⟨ird_eq (by omega), srd_eq (by omega)⟩

/-- R68: the reference field ends at offset 58 with an item reference, at 72 with a serial reference. -/
theorem reference_end {p : Nat} {e : PartitionEntry} (h : partitionEntry p = some e) :
    14 + e.cpw + e.irw = 58 ∧ 14 + e.cpw + e.srw = 72 := by
  have ⟨item, serial⟩ := partitionEntry_widths h
  exact ⟨by omega, by omega⟩

theorem resolveHeader_of_some {n : Nat} {v : EncodingVariant} (h : headerTable n = some v) :
    resolveHeader n = .ok v := by
  rw [resolveHeader, h]

theorem ImageIs.entry {v : EncodingVariant} {h : Str} {b : BitSeq} {p : Nat} {e : PartitionEntry}
    (hi : ImageIs v h b p e) : partitionEntry p = some e := by
  obtain ⟨-, -, -, he⟩ := hi
  exact he

/-- R105: the whole string is converted first. -/
theorem decodeTag_of_malformed {h : Str} (hb : hexToBits h = none) : decodeTag h = .error (.raise .malformedHex) := by
  rw [decodeTag, hb]

section
variable {h : Str} {b : BitSeq} (hb : hexToBits h = some b)
include hb

/-- R116: no header. -/
theorem decodeTag_of_lt_8 (hl : b.length < 8) : decodeTag h = .error (.refuse .imageTooShort) := by
  simp (disch := omega) only [decodeTag, hb, readNumber_of_lt, bind, Except.bind]

/-- R106: a header outside the table, whatever follows it. -/
theorem decodeTag_of_unsupported (hl : 8 ≤ b.length) (hv : headerTable (bitsToUnsigned (takeBits b 0 8)) = none) :
    decodeTag h = .error (.raise .unsupportedHeader) := by
  have header : resolveHeader (bitsToUnsigned (takeBits b 0 8)) = .error (.raise .unsupportedHeader) := by
    rw [resolveHeader, hv]
  simp (disch := omega) only [decodeTag, hb, readNumber_of_le, header, bind, Except.bind]

variable {v : EncodingVariant} (hv : headerTable (bitsToUnsigned (takeBits b 0 8)) = some v)
include hv

/-- R116: a header, and no filter or no partition behind it. -/
theorem decodeTag_of_lt_14 (hl8 : 8 ≤ b.length) (hl14 : b.length < 14) :
    decodeTag h = .error (.refuse .imageTooShort) := by
  rcases Nat.lt_or_ge b.length 11 with hl11 | hl11 <;>
    simp (disch := omega) only [decodeTag, hb, readNumber_of_le, readNumber_of_lt, resolveHeader_of_some hv, bind,
      Except.bind]

/-- R108: the partition is resolved before anything behind it is read. -/
theorem decodeTag_of_partition7 (hl : 14 ≤ b.length) (hp : bitsToUnsigned (takeBits b 11 3) = 7) :
    decodeTag h = .error (.raise .invalidPartition) := by
  have entry : resolvePartition (bitsToUnsigned (takeBits b 11 3)) = .error (.raise .invalidPartition) := by rw [hp]; rfl
  simp (disch := omega) only [decodeTag, hb, readNumber_of_le, resolveHeader_of_some hv, entry, bind, Except.bind]

end

/-- R108: partition bits other than 111 have an entry. -/
theorem exists_imageIs {v : EncodingVariant} {h : Str} {b : BitSeq} (hb : hexToBits h = some b)
    (hv : headerTable (bitsToUnsigned (takeBits b 0 8)) = some v) (hp : bitsToUnsigned (takeBits b 11 3) ≠ 7) :
    ∃ e, ImageIs v h b (bitsToUnsigned (takeBits b 11 3)) e := by
  have threeBits := bitsToUnsigned_takeBits_lt b 11 3
  obtain ⟨e, he⟩ := exists_partitionEntry (p := bitsToUnsigned (takeBits b 11 3)) (by omega)
  exact ⟨e, hb, hv, rfl, he⟩

section
variable {h : Str} {b : BitSeq} {p : Nat} {e : PartitionEntry}

/-- R116: the image ends within the company field. -/
theorem decodeTag_of_company_short {v : EncodingVariant} (hi : ImageIs v h b p e) (hl14 : 14 ≤ b.length)
    (hl : b.length < 14 + e.cpw) : decodeTag h = .error (.refuse .imageTooShort) := by
  obtain ⟨hb, hv, rfl, he⟩ := hi
  have entry : resolvePartition (bitsToUnsigned (takeBits b 11 3)) = .ok e := by rw [resolvePartition, he]
  simp (disch := omega) only [decodeTag, hb, readNumber_of_le, readNumber_of_lt, resolveHeader_of_some hv, entry, bind,
    Except.bind]

/-- R110, R116: every variant but SSCC-96 reads an item reference, which ends at offset 58. -/
theorem decodeTag_of_item_short {v : EncodingVariant} (hv : v ≠ .sscc96) (hi : ImageIs v h b p e)
    (hl14 : 14 ≤ b.length) (hl : b.length < 58) : decodeTag h = .error (.refuse .imageTooShort) := by
  have ends := (reference_end hi.entry).1
  rcases Nat.lt_or_ge b.length (14 + e.cpw) with company | company
  · exact decodeTag_of_company_short hi hl14 company
  · have item : readItemReference v b (14 + e.cpw) e.irw = .error (.refuse .imageTooShort) := by
      rw [readItemReference, if_neg hv, readNumber_of_lt (by omega)]
    rw [decodeTag_of_imageIs hi company, item]
    rfl

/-- R113, R116: SSCC-96 reads a serial reference, which ends at offset 72. -/
theorem decodeTag_of_serial_short (hi : ImageIs .sscc96 h b p e) (hl14 : 14 ≤ b.length) (hl : b.length < 72) :
    decodeTag h = .error (.refuse .imageTooShort) := by
  have ends := (reference_end hi.entry).2
  rcases Nat.lt_or_ge b.length (14 + e.cpw) with company | company
  · exact decodeTag_of_company_short hi hl14 company
  · have serial : readNumber b (14 + e.cpw) e.srw = .error (.refuse .imageTooShort) := readNumber_of_lt (by omega)
    simp only [decodeTag_of_imageIs hi company, readItemReference, if_true, decodeRest, serial, bind, Except.bind]

/-- R116: under every header of the table the company field and the reference end at offset 58 or later. -/
theorem decodeTag_of_lt_58 {v : EncodingVariant} (hi : ImageIs v h b p e) (hl14 : 14 ≤ b.length) (hl : b.length < 58) :
    decodeTag h = .error (.refuse .imageTooShort) := by
  by_cases hv : v = .sscc96
  · subst hv
    exact decodeTag_of_serial_short hi hl14 (by omega)
  · exact decodeTag_of_item_short hv hi hl14 hl

/-- R110, R115: a decode of every variant but SSCC-96 dispatches behind the item reference. -/
theorem decodeTag_of_item {v : EncodingVariant} (hv : v ≠ .sscc96) (hi : ImageIs v h b p e) (hl : 58 ≤ b.length) :
    decodeTag h = decodeRest v b e (bitsToUnsigned (takeBits b 8 3)) p (bitsToUnsigned (takeBits b 14 e.cpw))
      (bitsToUnsigned (takeBits b (14 + e.cpw) e.irw)) (14 + e.cpw) := by
  have ends := (reference_end hi.entry).1
  rw [decodeTag_of_imageIs hi (by omega), readItemReference, if_neg hv, readNumber_of_le (by omega)]
  rfl

/-- R111, U5: an image of header 48 that is not 96 bits long. -/
theorem decodeTag_of_sgtin96_length (hi : ImageIs .sgtin96 h b p e) (hl58 : 58 ≤ b.length) (hl : b.length ≠ 96) :
    decodeTag h = .error (.refuse .sgtin96LengthNot96) := by
  rw [decodeTag_of_item (by decide) hi hl58]
  exact if_pos (by rw [(reference_end hi.entry).1]; omega)

/-- R114, R117: DEC on an SGTIN-198 image. -/
theorem decodeTag_of_sgtin198 (hi : ImageIs .sgtin198 h b p e) (hl : 58 ≤ b.length) :
    decodeTag h = .ok (sgtin198Tag p (bitsToUnsigned (takeBits b 8 3)) (bitsToUnsigned (takeBits b 14 e.cpw))
      (bitsToUnsigned (takeBits b (14 + e.cpw) e.irw)) (b.drop 58)) := by
  rw [decodeTag_of_item (by decide) hi hl, decodeRest, (reference_end hi.entry).1]

/-- R113, R117: DEC on an SSCC-96 image. -/
theorem decodeTag_of_sscc96 (hi : ImageIs .sscc96 h b p e) (hl : 72 ≤ b.length) :
    decodeTag h = .ok (sscc96Tag p (bitsToUnsigned (takeBits b 8 3)) (bitsToUnsigned (takeBits b 14 e.cpw))
      (bitsToUnsigned (takeBits b (14 + e.cpw) e.srw)) (b.drop 72)) := by
  have ends := (reference_end hi.entry).2
  have serial : readNumber b (14 + e.cpw) e.srw = .ok (bitsToUnsigned (takeBits b (14 + e.cpw) e.srw)) :=
    readNumber_of_le (by omega)
  rw [decodeTag_of_imageIs hi (by omega)]
  simp only [readItemReference, if_true, decodeRest, serial, ends, bind, Except.bind]
  rfl

/-- R112: DEC on an image of a reserved header. -/
theorem decodeTag_of_reserved {name : ReservedName} (hi : ImageIs (.reserved name) h b p e) (hl : 58 ≤ b.length) :
    decodeTag h = .error (.raise (.notImplemented name)) := by
  rw [decodeTag_of_item (by simp) hi hl, decodeRest]

end

end Sys2Proof.Machine

/-! ### An encode, and the decode of its image (R118) -/

namespace Sys2Proof.Machine

/-- An image answered by an image operation is the rule's own. -/
theorem ok_of_answerImage {c : Checked Str} {s : State} {img : Str}
    (h : answerImage c s = .next (s.respond (Response.ofImage img))) : c = .ok img := by
  rcases answerImage_next h with ⟨z, hz, hs⟩ | ⟨x, -, hs⟩ <;> have rsp := Option.some.inj (congrArg State.rsp hs)
  · rw [hz, Option.some.inj (congrArg Response.image rsp)]
  · exact absurd (congrArg Response.status rsp).symm x.status_ne_ok

/-- R105, R106, R108: an image with a table header and a partition of the table, as the decoder sees it. -/
theorem HoldsFields.imageIs {b rest : BitSeq} {header f p c cp r ref : Nat} {h : Str} {v : EncodingVariant}
    {e : PartitionEntry} (fields : HoldsFields b header f p c cp r ref rest) (hb : hexToBits h = some b)
    (hv : headerTable header = some v) (he : partitionEntry p = some e) : ImageIs v h b p e :=
  ⟨hb, by rw [fields.header, hv], fields.partition, he⟩

section
variable {b rest : BitSeq} {f p cp ref : Nat} {h : Str} {e : PartitionEntry} (hb : hexToBits h = some b)
  (he : partitionEntry p = some e)
include hb he

/-- R111: DEC on the fields of an SGTIN-96 image. -/
theorem HoldsFields.decodeTag_sgtin96 (fields : HoldsFields b 48 f p e.cpw cp e.irw ref rest)
    (hl : rest.length = 38) : decodeTag h = .ok (sgtin96Tag p f cp ref (bitsToUnsigned rest)) := by
  have ends := (reference_end he).1
  have behind : b.drop 58 = rest := ends ▸ fields.rest
  have length := fields.length
  rw [decodeTag_of_sgtin96 (fields.imageIs hb rfl he) (by omega), fields.filter, fields.companyPrefix, fields.reference,
    behind]

/-- R114: DEC on the fields of an SGTIN-198 image. -/
theorem HoldsFields.decodeTag_sgtin198 (fields : HoldsFields b 54 f p e.cpw cp e.irw ref rest) :
    decodeTag h = .ok (sgtin198Tag p f cp ref rest) := by
  have ends := (reference_end he).1
  have behind : b.drop 58 = rest := ends ▸ fields.rest
  have length := fields.length
  rw [decodeTag_of_sgtin198 (fields.imageIs hb rfl he) (by omega), fields.filter, fields.companyPrefix,
    fields.reference, behind]

/-- R113: DEC on the fields of an SSCC-96 image. -/
theorem HoldsFields.decodeTag_sscc96 (fields : HoldsFields b 49 f p e.cpw cp e.srw ref rest) :
    decodeTag h = .ok (sscc96Tag p f cp ref rest) := by
  have ends := (reference_end he).2
  have behind : b.drop 72 = rest := ends ▸ fields.rest
  have length := fields.length
  rw [decodeTag_of_sscc96 (fields.imageIs hb rfl he) (by omega), fields.filter, fields.companyPrefix, fields.reference,
    behind]

end

/-- R118: an accepted ENC.SGTIN96 request decodes to the map of its numbers. -/
theorem decodeTag_encodeSgtin96 {f p : Nat} {cp ir ser h : Str} (h96 : encodeSgtin96 f p cp ir ser = .ok h) :
    decodeTag h = .ok (sgtin96Tag p f (parseDec cp) (parseDec ir) (parseDec ser)) := by
  obtain ⟨e, hf, he, -, hcp, -, hir, -, hser, rfl⟩ := encodeSgtin96_ok h96
  have fields := holdsFields_image (header := 48) (by decide) (Nat.lt_succ_of_le hf) (le_six_of_partitionEntry he) hcp
    hir (toBits (parseDec ser) 38)
  have serial : (toBits (parseDec ser) 38).length = 38 := toBits_length hser
  have bits := fields.length
  rw [serial, (reference_end he).1] at bits
  have back := hexToBits_bitsToHex (by rw [bits]; rfl)
  rw [fields.decodeTag_sgtin96 back he serial, bitsToUnsigned_toBits hser]

/-- R118: an accepted ENC.SSCC96 request decodes to the map of its numbers, with 24 zero bits behind. -/
theorem decodeTag_encodeSscc96 {f p : Nat} {cp ext ser h : Str} (h96 : encodeSscc96 f p cp ext ser = .ok h) :
    decodeTag h =
      .ok (sscc96Tag p f (parseDec cp) (parseDec (ext ++ padLeftDigits ser (srpad p))) (zeros 24)) := by
  obtain ⟨e, hf, he, -, hcp, -, -, hsr, rfl⟩ := encodeSscc96_ok h96
  have fields := holdsFields_image (header := 49) (by decide) (Nat.lt_succ_of_le hf) (le_six_of_partitionEntry he) hcp
    hsr (zeros 24)
  have bits := fields.length
  rw [zeros_length, (reference_end he).2] at bits
  have back := hexToBits_bitsToHex (by rw [bits]; rfl)
  exact fields.decodeTag_sscc96 back he

/-- Settles O52: the decoded map is that of the request's numbers, rendered; a nominal digit string is its rendering. -/
theorem sgtin96RoundTrip : Obligations.Sgtin96RoundTrip := by
  intro s u f p cp ir ser h hexec
  have encoded : encodeSgtin96 f p cp ir ser = .ok h := ok_of_answerImage hexec
  obtain ⟨e, -, he, hcp, -, hir, -, -, hser, -⟩ := encodeSgtin96_ok encoded
  have itemDigits : ird p = 1 + p := (reference_digits he).1
  have serialLength : (rendered (parseDec ser) 12).length = 12 := rendered_length (by decide) (hser.trans (by decide))
  refine ⟨_, execDec_of_ok (decodeTag_encodeSgtin96 encoded) u, rfl, rfl, rfl, parseDec_rendered .., ?_, ?_, ?_,
    fun nominal => rendered_parseDec hcp nominal, fun nominal => ?_⟩
  · exact congrArg some (parseDec_rendered ..)
  · exact congrArg some (parseDec_rendered ..)
  · exact congrArg some serialLength
  · exact congrArg some (rendered_parseDec hir (itemDigits ▸ nominal))

/-- Settles O54: the serial reference comes back as the number the extension and the padded serial make. -/
theorem sscc96RoundTrip : Obligations.Sscc96RoundTrip := by
  intro s u f p cp ext ser h hexec
  have encoded : encodeSscc96 f p cp ext ser = .ok h := ok_of_answerImage hexec
  obtain ⟨e, -, -, hcp, -, -, -, -, -⟩ := encodeSscc96_ok encoded
  exact ⟨_, execDec_of_ok (decodeTag_encodeSscc96 encoded) u, rfl, rfl, rfl, parseDec_rendered ..,
    congrArg some (parseDec_rendered ..), rfl, fun nominal => rendered_parseDec hcp nominal⟩

end Sys2Proof.Machine

/-! ### The serial of an SGTIN-198 image (R52, R70 to R72, R92, R114, R153)

The image has 198 bits, so the last two of them, the low bits of a 20th character, are a hexadecimal group of their own
and come back with two zero bits in front. -/

namespace Sys2Proof

/-- R50, R52: whole groups come back as they are, a short one behind them with the missing zeros in front. -/
theorem hexToBits_bitsToHex_append_of_short {a g : BitSeq} (ha : a.length % 4 = 0) (hg : g.length < 4) :
    hexToBits (bitsToHex (a ++ g)) = some (a ++ (zeros ((4 - g.length) % 4) ++ g)) := by
  have whole : a.length = 4 * (a.length / 4) := by omega
  rw [bitsToHex_append_of_whole whole]
  exact hexToBits_append ((hexToBits_bitsToHex_eq_self_iff a).2 ha) (hexToBits_bitsToHex_of_short hg)

theorem zeros_append_zeros (m n : Nat) : zeros m ++ zeros n = zeros (m + n) := List.replicate_append_replicate

/-- R71: two bits have a value of 3 at most, which is no character. -/
theorem decode7bit_two_bits {g : BitSeq} (h : g.length = 2) : decode7bit g = [] := by
  obtain ⟨x, y, rfl⟩ := List.length_eq_two.1 h
  revert x y
  decide

/-- R70: the last character's 7 bits stand behind those of the characters before it. -/
theorem encode7bit_append_singleton {s : Str} {c : Chr} {b : BitSeq} (h : encode7bit (s ++ [c]) = some b) :
    c.toNat < 2 ^ 7 ∧ ∃ d, encode7bit s = some d ∧ b = d ++ toBits c.toNat 7 := by
  have narrow := Machine.toNat_lt_of_encode7bit h
  rw [Machine.encode7bit_eq_some narrow] at h
  refine ⟨narrow c (by simp), _, Machine.encode7bit_eq_some fun x hx => narrow x (List.mem_append_left _ hx), ?_⟩
  simpa using (Option.some.inj h).symm

end Sys2Proof

namespace Sys2Proof.Machine

theorem clearLowTwo_toNat (c : Chr) : (clearLowTwo c).toNat = c.toNat - c.toNat % 4 := by
  have byte := c.isLt
  rw [clearLowTwo, BitVec.toNat_ofNat, Nat.mod_eq_of_lt (by omega)]

theorem clearLowTwo_eq_self_iff (c : Chr) : clearLowTwo c = c ↔ c.toNat % 4 = 0 := by
  rw [← BitVec.toNat_inj, clearLowTwo_toNat]
  omega

/-- R72: fewer than 20 characters lose those of code 0 to 9 only. -/
theorem comesBack_of_length_ne {s : Str} (h : s.length ≠ 20) : comesBack s = s.filter fun c => decide (9 < c.toNat) := by
  rw [comesBack, if_neg h]

/-- R153: a 20th character loses its low two bits first. -/
theorem comesBack_append_singleton {s : Str} (h : s.length = 19) (c : Chr) :
    comesBack (s ++ [c]) = (s ++ [clearLowTwo c]).filter fun x => decide (9 < x.toNat) := by
  rw [comesBack, if_pos (by simp [h]), List.take_left' h, List.drop_left' h]
  rfl

/-- The last of 20 characters. -/
theorem exists_append_of_length_20 {s : Str} (h : s.length = 20) : ∃ front c, front.length = 19 ∧ s = front ++ [c] := by
  have nonempty : s ≠ [] := List.ne_nil_of_length_pos (by omega)
  exact ⟨s.dropLast, s.getLast nonempty, by simp [h], (List.dropLast_append_getLast nonempty).symm⟩

/-- R72, R153: what loses nothing. -/
theorem comesBack_eq_self_iff (s : Str) : comesBack s = s ↔
    (∀ c ∈ s, 9 < c.toNat) ∧ (s.length = 20 → ∀ c ∈ s.getLast?, c.toNat % 4 = 0) := by
  by_cases h : s.length = 20
  · obtain ⟨front, c, hfront, rfl⟩ := exists_append_of_length_20 h
    have last : (∀ x ∈ (front ++ [c]).getLast?, x.toNat % 4 = 0) ↔ clearLowTwo c = c := by
      simp [clearLowTwo_eq_self_iff]
    simp only [comesBack_append_singleton hfront, last, h, forall_const]
    constructor
    · intro back
      have kept : ∀ x ∈ front ++ [clearLowTwo c], decide (9 < x.toNat) = true :=
        List.length_filter_eq_length_iff.1 (by simpa using congrArg List.length back)
      have same : front ++ [clearLowTwo c] = front ++ [c] := by rw [List.filter_eq_self.2 kept] at back; exact back
      rw [same] at kept
      exact ⟨fun x hx => of_decide_eq_true (kept x hx), by simpa using same⟩
    · rintro ⟨high, multiple⟩
      rw [multiple, List.filter_eq_self]
      exact fun x hx => decide_eq_true (high x hx)
  · simp [comesBack_of_length_ne h, List.filter_eq_self, h]

/-- R71, R153: a character whose last two bits have come apart from the first five decodes without them. -/
theorem decode7bit_split_character {c : Chr} (hc : c.toNat < 2 ^ 7) :
    decode7bit ((toBits c.toNat 7).take 5 ++ (zeros 2 ++ (toBits c.toNat 7).drop 5)) =
      [clearLowTwo c].filter fun x => decide (9 < x.toNat) := by
  have length : (toBits c.toNat 7).length = 7 := toBits_length hc
  have lowLength : ((toBits c.toNat 7).drop 5).length = 2 := by rw [List.length_drop, length]
  have low : bitsToUnsigned ((toBits c.toNat 7).drop 5) < 4 := bitsToUnsigned_lt_of_length_le lowLength.le
  have whole := bitsToUnsigned_append ((toBits c.toNat 7).take 5) ((toBits c.toNat 7).drop 5)
  rw [List.take_append_drop, bitsToUnsigned_toBits hc, lowLength] at whole
  have group : ((toBits c.toNat 7).take 5 ++ zeros 2).length = 7 := by simp [length]
  have value : bitsToUnsigned ((toBits c.toNat 7).take 5 ++ zeros 2) = c.toNat - c.toNat % 4 := by
    rw [bitsToUnsigned_append, bitsToUnsigned_zeros, zeros_length]
    omega
  rw [← List.append_assoc, decode7bit_append_of_group group, decode7bit_two_bits lowLength, List.append_nil, value,
    List.filter_singleton, clearLowTwo_toNat, ← clearLowTwo]
  simp

/-- R72, R92, R153: the serial field of 140 bits, as it comes back from a string of 198 bits. -/
theorem decode7bit_serialField {s : Str} {b : BitSeq} (hl : s.length ≤ 20) (hb : encode7bit s = some b) :
    decode7bit ((padRight b 140).take 138 ++ (zeros 2 ++ (padRight b 140).drop 138)) = comesBack s := by
  have length := encode7bit_length hb
  by_cases h : s.length = 20
  · obtain ⟨front, c, hfront, rfl⟩ := exists_append_of_length_20 h
    obtain ⟨hc, d, hd, rfl⟩ := encode7bit_append_singleton hb
    have frontLength : d.length = 133 := by rw [encode7bit_length hd, hfront]
    have full : padRight (d ++ toBits c.toNat 7) 140 = d ++ toBits c.toNat 7 := by
      rw [padRight, length, h]
      exact List.append_nil _
    have high : (d ++ toBits c.toNat 7).take 138 = d ++ (toBits c.toNat 7).take 5 := by
      rw [List.take_append, frontLength, List.take_of_length_le (by omega)]
    have low : (d ++ toBits c.toNat 7).drop 138 = (toBits c.toNat 7).drop 5 := by
      rw [List.drop_append, frontLength, List.drop_of_length_le (by omega), List.nil_append]
    rw [full, high, low, List.append_assoc, decode7bit_append_of_encode7bit hd, decode7bit_split_character hc,
      ← List.filter_append, comesBack_append_singleton hfront]
  · have padded : padRight b 140 = b ++ zeros (138 - b.length) ++ zeros 2 := by
      have fill : 140 - b.length = 138 - b.length + 2 := by omega
      rw [padRight, fill, List.append_assoc, zeros_append_zeros]
    have front : (b ++ zeros (138 - b.length)).length = 138 := by simp; omega
    rw [padded, List.take_left' front, List.drop_left' front, zeros_append_zeros, List.append_assoc,
      zeros_append_zeros, decode7bit_append_of_encode7bit hb, decode7bit_zeros, List.append_nil,
      comesBack_of_length_ne h]

/-- R118: an accepted ENC.SGTIN198 request decodes to the map of its numbers and of what comes back of its serial. -/
theorem decodeTag_encodeSgtin198 {f p : Nat} {cp ir ser h : Str} (h198 : encodeSgtin198 f p cp ir ser = .ok h) :
    ∃ rest, decodeTag h = .ok (sgtin198Tag p f (parseDec cp) (parseDec ir) rest) ∧ decode7bit rest = comesBack ser := by
  obtain ⟨e, sb, hf, he, -, hcp, -, hir, hser, hsb, rfl⟩ := encodeSgtin198_ok h198
  have fields := holdsFields_image (header := 54) (by decide) (Nat.lt_succ_of_le hf) (le_six_of_partitionEntry he) hcp hir
  have serialLength : (padRight sb 140).length = 140 := by rw [padRight_length, encode7bit_length hsb]; omega
  have frontLength : ((padRight sb 140).take 138).length = 138 := by rw [List.length_take, serialLength]; rfl
  have lowLength : ((padRight sb 140).drop 138).length = 2 := by rw [List.length_drop, serialLength]
  have wholeLength := (fields ((padRight sb 140).take 138)).length
  rw [frontLength, (reference_end he).1] at wholeLength
  have back := hexToBits_bitsToHex_append_of_short (g := (padRight sb 140).drop 138) (by rw [wholeLength])
    (by rw [lowLength]; decide)
  rw [List.append_assoc, List.take_append_drop, lowLength, List.append_assoc _ (List.take _ _)] at back
  exact ⟨_, (fields _).decodeTag_sgtin198 back he, decode7bit_serialField hser hsb⟩

/-- Settles O53: the numeric fields as in `sgtin96RoundTrip`, the serial as `decode7bit_serialField` gives it back. -/
theorem sgtin198RoundTrip : Obligations.Sgtin198RoundTrip := by
  intro s u f p cp ir ser h hexec
  have encoded : encodeSgtin198 f p cp ir ser = .ok h := ok_of_answerImage hexec
  obtain ⟨e, -, -, he, hcp, -, hir, -, -, -, -⟩ := encodeSgtin198_ok encoded
  have itemDigits : ird p = 1 + p := (reference_digits he).1
  obtain ⟨rest, decoded, serial⟩ := decodeTag_encodeSgtin198 encoded
  have serialNumber : some (decode7bit rest) = some (comesBack ser) := congrArg some serial
  refine ⟨_, execDec_of_ok decoded u, rfl, rfl, rfl, parseDec_rendered .., congrArg some (parseDec_rendered ..),
    fun nominal => rendered_parseDec hcp nominal, fun nominal => ?_, serialNumber, ?_⟩
  · exact congrArg some (rendered_parseDec hir (itemDigits ▸ nominal))
  · rw [← comesBack_eq_self_iff, ← serial]
    exact Option.some_inj

end Sys2Proof.Machine

/-! ### What a decode answers (R105 to R117) -/

namespace Sys2Proof.Machine

/-- R131: where the decode is refused, so is every operation that decodes. -/
theorem exec_decodingOps_of_refuse {h ser : Str} {i : Instr} {x : Refusal} (hi : i ∈ decodingOps h ser)
    (hd : decodeTag h = .error (.refuse x)) (s : State) : exec i s = .refused x := by
  simp only [decodingOps, List.mem_cons, List.not_mem_nil, or_false] at hi
  rcases hi with rfl | rfl | rfl | rfl | rfl
  · exact execDec_of_refuse hd s
  · exact answerDerived_of_refuse hd s
  · exact answerDerived_of_refuse hd s
  · exact answerDerived_of_refuse hd s
  · exact answerImage_of_refuse (reserialize_of_decodeTag_error hd ser) s

/-- Settles O42: each length is too short for one of the decoder's reads, or not SGTIN-96's own. -/
theorem shortImagesAreRefused : Obligations.ShortImagesAreRefused := by
  intro s h ser i b hi hb
  refine ⟨fun hl => exec_decodingOps_of_refuse hi (decodeTag_of_lt_8 hb hl) s, fun v hl8 hv =>
    ⟨fun hl => exec_decodingOps_of_refuse hi (decodeTag_of_lt_14 hb hv hl8 hl) s, fun hl14 hp => ?_⟩⟩
  obtain ⟨e, image⟩ := exists_imageIs hb hv hp
  refine ⟨fun hl => ?_, ?_, ?_⟩
  · exact exec_decodingOps_of_refuse hi (decodeTag_of_lt_58 image hl14 hl) s
  · rintro rfl hl
    exact exec_decodingOps_of_refuse hi (decodeTag_of_serial_short image hl14 hl) s
  · rintro rfl hl58 hl
    exact exec_decodingOps_of_refuse hi (decodeTag_of_sgtin96_length image hl58 hl) s

/-- R22: the last field of an image is all that is left of it. -/
theorem takeBits_to_end {b : BitSeq} {off w : Nat} (h : b.length = off + w) : takeBits b off w = b.drop off :=
  List.take_of_length_le (by rw [List.length_drop]; omega)

/-- Settles O43: the map of `decodeTag_of_sgtin96`; a number of 38 bits has at most 12 digits. -/
theorem decFillsTheSgtin96Map : Obligations.DecFillsTheSgtin96Map := by
  intro s h b p e hi
  refine ⟨fun hl => ⟨?_, ?_⟩, fun hl58 hl => execDec_of_refuse (decodeTag_of_sgtin96_length hi hl58 hl) s⟩
  · have decoded := decodeTag_of_sgtin96 hi hl
    rw [sgtin96Tag, (reference_digits hi.entry).1, ← takeBits_to_end (w := 38) hl] at decoded
    exact execDec_of_ok decoded s
  · exact rendered_length (by decide) ((bitsToUnsigned_takeBits_lt b 58 38).trans (by decide))

/-- Settles O44: the map of `decodeTag_of_sgtin198`. -/
theorem decFillsTheSgtin198Map : Obligations.DecFillsTheSgtin198Map := by
  intro s h b p e hi hl
  have decoded := decodeTag_of_sgtin198 hi hl
  rw [sgtin198Tag, (reference_digits hi.entry).1] at decoded
  exact execDec_of_ok decoded s

/-- Settles O45: the map of `decodeTag_of_sscc96`. -/
theorem decFillsTheSscc96Map : Obligations.DecFillsTheSscc96Map := by
  intro s h b p e hi hl
  have decoded := decodeTag_of_sscc96 hi hl
  rw [sscc96Tag, (reference_digits hi.entry).2] at decoded
  exact execDec_of_ok decoded s

/-- R111 to R114: the map of each variant that the last step of a decode can give. -/
theorem decodeRest_ok {v : EncodingVariant} {b : BitSeq} {e : PartitionEntry} {f p cp ir off : Nat} {t : DecodedTag}
    (h : decodeRest v b e f p cp ir off = .ok t) :
    (∃ serial, t = sgtin96Tag p f cp ir serial) ∨ (∃ rest, t = sgtin198Tag p f cp ir rest) ∨
      ∃ sr unallocated, t = sscc96Tag p f cp sr unallocated := by
  cases v with
  | sgtin96 =>
    rw [decodeRest] at h
    split at h
    · cases h
    · exact .inl ⟨_, (Except.ok.inj h).symm⟩
  | sgtin198 => exact .inr (.inl ⟨_, (Except.ok.inj h).symm⟩)
  | sscc96 =>
    rcases readNumber_cases b off e.srw with ⟨-, hr⟩ | ⟨-, hr⟩ <;>
      simp only [decodeRest, hr, bind, Except.bind] at h
    · cases h
    · exact .inr (.inr ⟨_, _, (Except.ok.inj h).symm⟩)
  | reserved name => cases h

/-- R107, R117: a filter of 3 bits is one digit, 0 to 7. -/
theorem filter_digit {f : Nat} (hf : f < 2 ^ 3) :
    isDigitStr (dec f) = true ∧ (dec f).length = 1 ∧ parseDec (dec f) ≤ 7 := by
  have short : (dec f).length ≤ 1 := dec_length_le one_pos (by omega)
  exact ⟨isDigitStr_dec f, short.antisymm (dec_length_pos f), by rw [parseDec_dec]; omega⟩

/-- Settles O51: the map is one of the three the decoder's last step gives, and each fills its variant's members. -/
theorem decodeFillsTheFieldsOfItsVariant : Obligations.DecodeFillsTheFieldsOfItsVariant := by
  intro s h t hexec
  obtain ⟨b, v, e, -, -, -, he, ir, -, hrest⟩ := decodeTag_ok (decodeTag_of_execDec_tag hexec)
  have hp := le_six_of_partitionEntry he
  obtain ⟨digits, single, small⟩ := filter_digit (bitsToUnsigned_takeBits_lt b 8 3)
  rcases decodeRest_ok hrest with ⟨serial, rfl⟩ | ⟨rest, rfl⟩ | ⟨sr, unallocated, rfl⟩
  · refine ⟨?_, ⟨digits, single, small, hp⟩, ?_⟩ <;> simp [sgtin96Tag, DecodedTag.read]
  · refine ⟨?_, ⟨digits, single, small, hp⟩, ?_⟩ <;> simp [sgtin198Tag, DecodedTag.read]
  · refine ⟨?_, ⟨digits, single, small, hp⟩, ?_⟩ <;> simp [sscc96Tag, DecodedTag.read]

/-! ### The rows of reserved and unsupported headers and of partition 7 (R106, R108, R112) -/

section
variable {name : ReservedName} {p : BitVec 3} {rest : BitSeq}

theorem answerReserved_of_partition7 (hp : p = 7#3) (s : State) :
    answerReserved name p rest s = .next (s.respond (Response.ofError .invalidPartition)) := by
  rw [hp]
  rfl

/-- R108: three bits other than 111 are a partition of the table. -/
theorem exists_partitionEntry_of_ne_seven (hp : p ≠ 7#3) : ∃ e, partitionEntry p.toNat = some e :=
  exists_partitionEntry (by bv_omega)

theorem answerReserved_of_short (hp : p ≠ 7#3) (hl : rest.length < 44) (s : State) :
    answerReserved name p rest s = .refused .imageTooShort := by
  obtain ⟨e, he⟩ := exists_partitionEntry_of_ne_seven hp
  rw [answerReserved, he]
  exact if_pos (by omega)

theorem answerReserved_of_long (hp : p ≠ 7#3) (hl : 44 ≤ rest.length) (s : State) :
    answerReserved name p rest s = .next (s.respond (Response.ofError (.notImplemented name))) := by
  obtain ⟨e, he⟩ := exists_partitionEntry_of_ne_seven hp
  rw [answerReserved, he]
  exact if_neg (by omega)

end

/-- Settles O58: the six rows share one meaning, which checks the partition, then the length. -/
theorem reservedRowsAreNotImplemented : Obligations.ReservedRowsAreNotImplemented := by
  intro s f p rest i name hrow
  have meaning : exec i s = answerReserved name p rest s := by
    simp only [List.mem_cons, Prod.mk.injEq, List.not_mem_nil, or_false] at hrow
    rcases hrow with ⟨rfl, rfl⟩ | ⟨rfl, rfl⟩ | ⟨rfl, rfl⟩ | ⟨rfl, rfl⟩ | ⟨rfl, rfl⟩ | ⟨rfl, rfl⟩ <;> rfl
  rw [meaning]
  exact ⟨fun hp hl => answerReserved_of_long hp hl s, fun hp => answerReserved_of_partition7 hp s,
    fun hp hl => answerReserved_of_short hp hl s⟩

theorem execPartition7_of_some {header : BitVec 8} {v : EncodingVariant} (hv : headerTable header.toNat = some v)
    (f : BitVec 3) (rest : BitSeq) (s : State) :
    execPartition7 header f rest s = .next (s.respond (Response.ofError .invalidPartition)) := by
  rw [execPartition7, hv]
  rfl

/-- Settles O59: the one row raises UnsupportedHeader, the other InvalidPartition under a header that resolves. -/
theorem unsupportedAndPartitionSevenRows : Obligations.UnsupportedAndPartitionSevenRows := by
  intro s header f rest
  refine ⟨rfl, fun hheader => ?_⟩
  obtain ⟨v, hv⟩ := Option.ne_none_iff_exists'.1 hheader
  exact execPartition7_of_some hv f rest s

/-! ### A presented image is answered as DEC answers it (R26, R115) -/

section
variable {b : BitSeq} {p : Nat} {e : PartitionEntry} (he : partitionEntry p = some e) (s : State)
include he

/-- R26, R111: an SGTIN-96 row's literal offsets are those of its partition's entry. -/
theorem exec_decodeSgtin96 : exec (decodeSgtin96 b p) s = .next (s.respond (Response.ofTag
    (sgtin96Tag p (bitsToUnsigned (takeBits b 8 3)) (bitsToUnsigned (takeBits b 14 e.cpw))
      (bitsToUnsigned (takeBits b (14 + e.cpw) e.irw)) (bitsToUnsigned (takeBits b 58 38))))) := by
  simp only [← field_toNat]
  rcases partitionEntry_rows he with ⟨rfl, rfl⟩ | ⟨rfl, rfl⟩ | ⟨rfl, rfl⟩ | ⟨rfl, rfl⟩ | ⟨rfl, rfl⟩ | ⟨rfl, rfl⟩ |
    ⟨rfl, rfl⟩ <;> rfl

/-- R26, R114: the same of an SGTIN-198 row. -/
theorem exec_decodeSgtin198 : exec (decodeSgtin198 b p) s = .next (s.respond (Response.ofTag
    (sgtin198Tag p (bitsToUnsigned (takeBits b 8 3)) (bitsToUnsigned (takeBits b 14 e.cpw))
      (bitsToUnsigned (takeBits b (14 + e.cpw) e.irw)) (b.drop 58)))) := by
  simp only [← field_toNat]
  rcases partitionEntry_rows he with ⟨rfl, rfl⟩ | ⟨rfl, rfl⟩ | ⟨rfl, rfl⟩ | ⟨rfl, rfl⟩ | ⟨rfl, rfl⟩ | ⟨rfl, rfl⟩ |
    ⟨rfl, rfl⟩ <;> rfl

/-- R26, R113: the same of an SSCC-96 row. -/
theorem exec_decodeSscc96 : exec (decodeSscc96 b p) s = .next (s.respond (Response.ofTag
    (sscc96Tag p (bitsToUnsigned (takeBits b 8 3)) (bitsToUnsigned (takeBits b 14 e.cpw))
      (bitsToUnsigned (takeBits b (14 + e.cpw) e.srw)) (b.drop 72)))) := by
  simp only [← field_toNat]
  rcases partitionEntry_rows he with ⟨rfl, rfl⟩ | ⟨rfl, rfl⟩ | ⟨rfl, rfl⟩ | ⟨rfl, rfl⟩ | ⟨rfl, rfl⟩ | ⟨rfl, rfl⟩ |
    ⟨rfl, rfl⟩ <;> rfl

end

/-- R112: a reserved row's meaning, whatever its name. -/
theorem exec_decodeReserved (name : ReservedName) (b : BitSeq) (s : State) :
    exec (decodeReserved name b) s = answerReserved name (field b 11 3) (b.drop 14) s := by
  cases name <;> rfl

/-- R115: every row an image can be read as is answered as DEC answers the image. -/
theorem exec_of_imageRow {h : Str} {b : BitSeq} {i : Instr} (hb : hexToBits h = some b) (hrow : ImageRow b i)
    (s : State) : exec i s = execDec h s := by
  have legal {v : EncodingVariant} (hv : headerTable (field b 0 8).toNat = some v) (hp : (field b 11 3).toNat ≤ 6) :
      ∃ e, ImageIs v h b (field b 11 3).toNat e := by
    rw [field_toNat] at hv hp ⊢
    exact exists_imageIs hb hv (by omega)
  cases hrow with
  | unsupported hl hv =>
    rw [field_toNat] at hv
    exact (execDec_of_raise (decodeTag_of_unsupported hb hl hv) s).symm
  | partition7 hl hv hp =>
    refine (execPartition7_of_some hv (field b 8 3) (b.drop 14) s).trans (execDec_of_raise ?_ s).symm
    rw [field_toNat] at hv hp
    exact decodeTag_of_partition7 hb hv hl hp
  | sgtin96 hl hv hp =>
    obtain ⟨e, hi⟩ := legal hv hp
    rw [exec_decodeSgtin96 hi.entry, takeBits_to_end (w := 38) hl, execDec_of_ok (decodeTag_of_sgtin96 hi hl)]
  | sgtin198 hl hv hp =>
    obtain ⟨e, hi⟩ := legal hv hp
    rw [exec_decodeSgtin198 hi.entry, execDec_of_ok (decodeTag_of_sgtin198 hi hl)]
  | sscc96 hl hv hp =>
    obtain ⟨e, hi⟩ := legal hv hp
    rw [exec_decodeSscc96 hi.entry, execDec_of_ok (decodeTag_of_sscc96 hi hl)]
  | reserved hl hv hp =>
    obtain ⟨e, hi⟩ := legal hv hp
    have notSeven : field b 11 3 ≠ 7#3 := fun seven => by rw [seven] at hp; exact absurd hp (by decide)
    rw [exec_decodeReserved, execDec_of_raise (decodeTag_of_reserved hi hl),
      answerReserved_of_long notSeven (by rw [List.length_drop]; omega)]

/-- R115, R116: an image that no row is read from is refused as DEC refuses it. -/
theorem reject_of_decodeImageBits {h : Str} {b : BitSeq} {x : DecodeError} (hb : hexToBits h = some b)
    (hx : decodeImageBits b = .error x) (s : State) : reject x s = execDec h s := by
  unfold decodeImageBits at hx
  split at hx
  · next hl => cases hx; exact (execDec_of_refuse (decodeTag_of_lt_8 hb hl) s).symm
  · next hl8 =>
    rw [field_toNat, field_toNat] at hx
    split at hx
    · cases hx
    · next v hv =>
      split at hx
      · next hl => cases hx; exact (execDec_of_refuse (decodeTag_of_lt_14 hb hv (by omega) hl) s).symm
      · next hl14 =>
        split at hx
        · cases hx
        · next hp =>
          obtain ⟨e, hi⟩ := exists_imageIs hb hv hp
          split at hx
          · next hl => cases hx; exact (execDec_of_refuse (decodeTag_of_lt_58 hi (by omega) hl) s).symm
          · next hl58 =>
            cases v with
            | sgtin96 =>
              simp only at hx
              split at hx
              · cases hx
              · next hl =>
                cases hx
                exact (execDec_of_refuse (decodeTag_of_sgtin96_length hi (by omega) hl) s).symm
            | sgtin198 => cases hx
            | sscc96 =>
              simp only at hx
              split at hx
              · next hl =>
                cases hx
                exact (execDec_of_refuse (decodeTag_of_serial_short hi (by omega) hl) s).symm
              · cases hx
            | reserved name => cases hx

/-- An instruction is answered by its meaning. -/
theorem answer_of_decode {w : Presented} {i : Instr} (h : decode w = .ok i) (s : State) : answer w s = exec i s := by
  rw [answer, h]

/-- A word that is no instruction is rejected. -/
theorem answer_of_decode_error {w : Presented} {x : DecodeError} (h : decode w = .error x) (s : State) :
    answer w s = reject x s := by
  rw [answer, h]

/-- R36, R50, R115: DEC answers every string as the string presented by itself is answered. -/
theorem answer_image (h : Str) (s : State) : answer (.image h) s = execDec h s := by
  cases hb : hexToBits h with
  | none =>
    have malformed : decode (.image h) = .error .malformedHex := by simp only [decode, decodeImage, hb]
    rw [answer_of_decode_error malformed, execDec_of_raise (decodeTag_of_malformed hb)]
    rfl
  | some b =>
    have bits := decode_image_of_hexToBits hb
    cases hi : decodeImageBits b with
    | ok i =>
      rw [answer_of_decode (bits.trans hi)]
      exact exec_of_imageRow hb (imageRow_of_decodeImageBits hi) s
    | error x =>
      rw [answer_of_decode_error (bits.trans hi)]
      exact reject_of_decodeImageBits hb hi s

/-- Settles O14: row by row, and refusal by refusal, the literal offsets and the running cursor agree. -/
theorem presentedImageIsAnsweredAsDec : Obligations.PresentedImageIsAnsweredAsDec :=
  ⟨answer_image, fun h _ s hi => (answer_of_decode hi s).symm.trans (answer_image h s)⟩

/-! ### Words that are no instruction (R39, U14) -/

/-- R39: the select codes 0 and 11 to 15 select no operation. -/
theorem decode_command_of_reserved {r : Request} (h : r.op.toNat = 0 ∨ 11 ≤ r.op.toNat) :
    decode (.command r) = .error .reservedSelect := by
  simp only [decode, decodeCommand]
  split
  case h_11 => rfl
  all_goals omega

/-- Settles O2: the step records the rejection of the word, and a refusal has nothing to record. -/
theorem undecodableWordIsAnsweredByName : Obligations.UndecodableWordIsAnsweredByName := by
  intro s w rest hs
  have rejected {x : DecodeError} (hx : decode w = .error x) :
      step s = recorded w (reject x { s with requests := rest }) := by
    rw [step_of_requests hs, answer_of_decode_error hx]
  refine ⟨rejected, rejected, rejected, ?_⟩
  rintro r rfl hop
  exact rejected (decode_command_of_reserved hop)

end Sys2Proof.Machine

/-! ### The identifiers of an image (R120 to R125) -/

namespace Sys2Proof.Machine

/-- R120, R121: the reference's first digit, the company field, the reference's other digits. -/
def assembled (ref companyPrefix : Str) : Str := ref.take 1 ++ companyPrefix ++ ref.drop 1

theorem assembled_length (ref companyPrefix : Str) :
    (assembled ref companyPrefix).length = ref.length + companyPrefix.length := by
  simp only [assembled, List.length_append, List.length_take, List.length_drop]
  omega

theorem assembled_all_isDigit {ref companyPrefix : Str} (href : ref.all isDigit = true)
    (hcp : companyPrefix.all isDigit = true) : (assembled ref companyPrefix).all isDigit = true := by
  rw [← List.take_append_drop 1 ref, List.all_append, Bool.and_eq_true] at href
  simp only [assembled, List.all_append, href, hcp, Bool.and_self]

/-- R75: what closes a string is its check digit. -/
theorem closedBy_eq (g : Str) : closedBy g = g ++ [digitChar ((1000 - weightedSum g) % 10)] := rfl

theorem closedBy_length (g : Str) : (closedBy g).length = g.length + 1 := List.length_append

theorem isDigitStr_closedBy {g : Str} (hg : g.all isDigit = true) : isDigitStr (closedBy g) = true := by
  have digit : isDigit (digitChar ((1000 - weightedSum g) % 10)) = true := isDigit_digitChar (Nat.mod_lt _ (by decide))
  simp [isDigitStr, closedBy_eq, hg, digit, -List.all_eq_true]

/-- R77: a digit string closed by its check digit is valid. -/
theorem exec_chkValid_closedBy {g : Str} (hg : g.all isDigit = true) (inRange : weightedSum g ≤ 1000) (s : State) :
    exec (.chkValid (closedBy g)) s = .next (s.respond (Response.ofValid true)) := by
  have oneDigit : (1000 - weightedSum g) % 10 < 10 := Nat.mod_lt _ (by decide)
  rw [closedBy_eq, exec_chkValid_append_of_le hg (isDigit_digitChar oneDigit) inRange, digitVal_digitChar oneDigit,
    beq_self_eq_true]

/-! ### The identifiers of each of the three field maps (R120 to R122) -/

section
variable (p f cp ref serial : Nat) (rest : BitSeq)

@[simp] theorem gtin_sgtin96Tag : gtin (sgtin96Tag p f cp ref serial) =
    identifier (some (rendered ref (ird p))) (rendered cp (cpd p)) := rfl
@[simp] theorem gtin_sgtin198Tag : gtin (sgtin198Tag p f cp ref rest) =
    identifier (some (rendered ref (ird p))) (rendered cp (cpd p)) := rfl
@[simp] theorem gtin_sscc96Tag : gtin (sscc96Tag p f cp ref rest) = .ok none := rfl
@[simp] theorem sscc_sgtin96Tag : sscc (sgtin96Tag p f cp ref serial) = .ok none := rfl
@[simp] theorem sscc_sgtin198Tag : sscc (sgtin198Tag p f cp ref rest) = .ok none := rfl
@[simp] theorem sscc_sscc96Tag : sscc (sscc96Tag p f cp ref rest) =
    identifier (some (rendered ref (srd p))) (rendered cp (cpd p)) := rfl
@[simp] theorem serialNumber_sgtin96Tag :
    serialNumber (sgtin96Tag p f cp ref serial) = some (rendered serial 12) := rfl
@[simp] theorem serialNumber_sgtin198Tag :
    serialNumber (sgtin198Tag p f cp ref rest) = some (decode7bit rest) := rfl
@[simp] theorem serialNumber_sscc96Tag :
    serialNumber (sscc96Tag p f cp ref rest) = some (rendered ref (srd p)) := rfl

end

/-! ### The identifiers as the image's fields give them (R120 to R122) -/

theorem rendered_all_isDigit (v n : Nat) : (rendered v n).all isDigit = true :=
  all_isDigit_of_isDigitStr (isDigitStr_padLeftDigits (isDigitStr_dec v) n)

/-- R68: a company field and a reference have at most 58 bits together, and 18 digits hold any number of 58 bits. -/
theorem fieldText_length_le {w n : Nat} (hw : w ≤ 58) (hn : n ≤ 18) (b : BitSeq) (off : Nat) :
    (fieldText b off w n).length ≤ 18 := by
  have value : bitsToUnsigned (takeBits b off w) < 10 ^ 18 :=
    (bitsToUnsigned_takeBits_lt b off w).trans_le ((Nat.pow_le_pow_right two_pos hw).trans (by decide))
  rw [fieldText, padLeftDigits, padLeft_length]
  exact max_le hn (dec_length_le (by decide) value)

/-- R78, R120, R121: no image's fields have digits enough for a sum over 1000. -/
theorem identifier_fieldText {wr nr wc nc : Nat} (hwr : wr ≤ 58) (hnr : nr ≤ 18) (hwc : wc ≤ 58) (hnc : nc ≤ 18)
    (b : BitSeq) (r c : Nat) : identifier (some (fieldText b r wr nr)) (fieldText b c wc nc) =
      .ok (some (closedBy (assembled (fieldText b r wr nr) (fieldText b c wc nc)))) := by
  have digits : (assembled (fieldText b r wr nr) (fieldText b c wc nc)).all isDigit = true :=
    assembled_all_isDigit (rendered_all_isDigit _ nr) (rendered_all_isDigit _ nc)
  have short : (assembled (fieldText b r wr nr) (fieldText b c wc nc)).length ≤ 55 := by
    have reference := fieldText_length_le hwr hnr b r
    have companyPrefix := fieldText_length_le hwc hnc b c
    rw [assembled_length]
    omega
  obtain ⟨-, -, inRange⟩ := fiftyFiveDigitsStayInRange _ digits
  exact identifier_of_le ((inRange short).trans (by decide))

/-- Settles O46: the SGTIN maps' item reference and company field are the image's, and always in range. -/
theorem decGtinAssemblesTheGtin : Obligations.DecGtinAssemblesTheGtin := by
  intro s h b p e v hi hl
  have inTable := le_six_of_partitionEntry hi.entry
  have widths := (partitionEntry_widths hi.entry).1
  have delivered := identifier_fieldText (wr := e.irw) (nr := 1 + p) (wc := e.cpw) (nc := 12 - p) (by omega) (by omega)
    (by omega) (by omega) b (14 + e.cpw) 14
  rw [← (reference_digits hi.entry).1] at delivered ⊢
  refine ⟨?_, ?_⟩
  · rintro (rfl | rfl)
    · exact answerDerived_of_ok (decodeTag_of_sgtin96 hi hl) ((gtin_sgtin96Tag ..).trans delivered) s
    · exact answerDerived_of_ok (decodeTag_of_sgtin198 hi hl) ((gtin_sgtin198Tag ..).trans delivered) s
  · rintro rfl
    exact answerDerived_of_ok (decodeTag_of_sscc96 hi hl) (gtin_sscc96Tag ..) s

/-- Settles O47: the SSCC-96 map's serial reference and company field are the image's, and always in range. -/
theorem decSsccAssemblesTheSscc : Obligations.DecSsccAssemblesTheSscc := by
  intro s h b p e v hi hl
  have inTable := le_six_of_partitionEntry hi.entry
  have widths := (partitionEntry_widths hi.entry).2
  have delivered := identifier_fieldText (wr := e.srw) (nr := 5 + p) (wc := e.cpw) (nc := 12 - p) (by omega) (by omega)
    (by omega) (by omega) b (14 + e.cpw) 14
  rw [← (reference_digits hi.entry).2] at delivered ⊢
  refine ⟨?_, ?_⟩
  · rintro rfl
    exact answerDerived_of_ok (decodeTag_of_sscc96 hi hl) ((sscc_sscc96Tag ..).trans delivered) s
  · rintro (rfl | rfl)
    · exact answerDerived_of_ok (decodeTag_of_sgtin96 hi hl) (sscc_sgtin96Tag ..) s
    · exact answerDerived_of_ok (decodeTag_of_sgtin198 hi hl) (sscc_sgtin198Tag ..) s

/-- Settles O48: each variant's map holds the text in the member the derivation takes. -/
theorem decSerialGivesTheSerial : Obligations.DecSerialGivesTheSerial := by
  intro s h b p e v hi hl
  refine ⟨?_, ?_, ?_⟩
  · rintro rfl
    have decoded := decodeTag_of_sgtin96 hi hl
    rw [← takeBits_to_end (w := 38) hl] at decoded
    exact answerDerived_of_ok decoded (congrArg Except.ok (serialNumber_sgtin96Tag ..)) s
  · rintro rfl
    exact answerDerived_of_ok (decodeTag_of_sgtin198 hi hl) (congrArg Except.ok (serialNumber_sgtin198Tag ..)) s
  · rintro rfl
    rw [← (reference_digits hi.entry).2]
    exact answerDerived_of_ok (decodeTag_of_sscc96 hi hl) (congrArg Except.ok (serialNumber_sscc96Tag ..)) s

/-! ### What a delivered identifier is (R120, R121, R123) -/

/-- R117: the company field and the reference of a decoded map are decimal digits. -/
theorem decodeTag_digits {h : Str} {t : DecodedTag} (hd : decodeTag h = .ok t) :
    t.companyPrefix.all isDigit = true ∧ (∀ r ∈ t.itemReference, r.all isDigit = true) ∧
      ∀ r ∈ t.serialReference, r.all isDigit = true := by
  obtain ⟨b, v, e, -, -, -, -, ir, -, hrest⟩ := decodeTag_ok hd
  rcases decodeRest_ok hrest with ⟨serial, rfl⟩ | ⟨rest, rfl⟩ | ⟨sr, unallocated, rfl⟩ <;>
    simp [sgtin96Tag, sgtin198Tag, sscc96Tag, rendered_all_isDigit, -List.all_eq_true]

theorem decodeTag_partition_le {h : Str} {t : DecodedTag} (hd : decodeTag h = .ok t) : t.partition ≤ 6 := by
  obtain ⟨b, v, e, -, -, -, he, ir, -, hrest⟩ := decodeTag_ok hd
  have inTable := le_six_of_partitionEntry he
  rcases decodeRest_ok hrest with ⟨serial, rfl⟩ | ⟨rest, rfl⟩ | ⟨sr, unallocated, rfl⟩ <;> exact inTable

/-- R120, R121: `text` is the identifier of a present reference and a company field, of digits whose sum is in
range. -/
def Identifies (ref : Option Str) (companyPrefix text : Str) : Prop :=
  ∃ r, ref = some r ∧ (assembled r companyPrefix).all isDigit = true ∧
    weightedSum (assembled r companyPrefix) ≤ 1000 ∧ text = closedBy (assembled r companyPrefix)

section
variable {ref : Option Str} {companyPrefix text : Str}

theorem identifies_of_identifier (hcp : companyPrefix.all isDigit = true) (href : ∀ r ∈ ref, r.all isDigit = true)
    (h : identifier ref companyPrefix = .ok (some text)) : Identifies ref companyPrefix text := by
  cases ref with
  | none => cases h
  | some r =>
    refine ⟨r, rfl, assembled_all_isDigit (href r rfl) hcp, ?_⟩
    rcases Nat.lt_or_ge 1000 (weightedSum (assembled r companyPrefix)) with exceeds | inRange
    · rw [identifier, withCheckDigit, ← assembled, weightedChecksum_of_gt exceeds] at h
      cases h
    · exact ⟨inRange, Option.some.inj (Except.ok.inj (h.symm.trans (identifier_of_le inRange)))⟩

theorem Identifies.validates (h : Identifies ref companyPrefix text) (s : State) :
    exec (.chkValid text) s = .next (s.respond (Response.ofValid true)) := by
  obtain ⟨r, -, digits, inRange, rfl⟩ := h
  exact exec_chkValid_closedBy digits inRange s

theorem Identifies.isDigitStr (h : Identifies ref companyPrefix text) : isDigitStr text = true := by
  obtain ⟨r, -, digits, -, rfl⟩ := h
  exact isDigitStr_closedBy digits

theorem Identifies.length {n : Nat} (h : Identifies ref companyPrefix text) (hn : ref.map List.length = some n) :
    text.length = n + companyPrefix.length + 1 := by
  obtain ⟨r, rfl, -, -, rfl⟩ := h
  obtain rfl : r.length = n := Option.some.inj hn
  rw [closedBy_length, assembled_length]

end

/-- A value answered by a derivation is the derivation's, from the decoded map. -/
theorem derived_of_answerDerived {f : DecodedTag → Checked (Option Str)} {h : Str} {s : State} {r : Option Str}
    (hx : answerDerived f h s = .next (s.respond (Response.ofDerived r))) :
    ∃ t, decodeTag h = .ok t ∧ f t = .ok r := by
  rcases answerDerived_next hx with ⟨t, q, hd, hf, hs⟩ | ⟨x, -, hs⟩ <;>
    have rsp := Option.some.inj (congrArg State.rsp hs)
  · obtain rfl : r = q := congrArg Response.text rsp
    exact ⟨t, hd, hf⟩
  · exact absurd (congrArg Response.status rsp).symm x.status_ne_ok

section
variable {h text : Str} {s : State}

/-- R120: a GTIN that DEC.GTIN delivers identifies the decoded item reference. -/
theorem identifies_of_decGtin (hx : exec (.decGtin h) s = .next (s.respond (Response.ofDerived (some text)))) :
    ∃ t, decodeTag h = .ok t ∧ Identifies t.itemReference t.companyPrefix text := by
  obtain ⟨t, hd, hg⟩ := derived_of_answerDerived hx
  obtain ⟨hcp, item, -⟩ := decodeTag_digits hd
  rw [gtin] at hg
  split at hg
  · exact ⟨t, hd, identifies_of_identifier hcp item hg⟩
  · cases hg

/-- R121: an SSCC that DEC.SSCC delivers identifies the decoded serial reference. -/
theorem identifies_of_decSscc (hx : exec (.decSscc h) s = .next (s.respond (Response.ofDerived (some text)))) :
    ∃ t, decodeTag h = .ok t ∧ Identifies t.serialReference t.companyPrefix text := by
  obtain ⟨t, hd, hg⟩ := derived_of_answerDerived hx
  obtain ⟨hcp, -, serial⟩ := decodeTag_digits hd
  rw [sscc] at hg
  split at hg
  · exact ⟨t, hd, identifies_of_identifier hcp serial hg⟩
  · cases hg

end

/-- Settles O49: what is delivered is a digit string closed by its check digit. -/
theorem deliveredIdentifiersValidate : Obligations.DeliveredIdentifiersValidate := by
  rintro s u h text (hx | hx)
  · obtain ⟨t, -, identifies⟩ := identifies_of_decGtin hx
    exact identifies.validates u
  · obtain ⟨t, -, identifies⟩ := identifies_of_decSscc hx
    exact identifies.validates u

/-- Settles O50: the digits of the two fields and the check digit; the `p` of the two nominal counts cancels. -/
theorem nominalFieldsGiveNominalIdentifiers : Obligations.NominalFieldsGiveNominalIdentifiers := by
  intro s h text t ht hcp
  have decoded := decodeTag_of_execDec_tag ht
  have inTable := decodeTag_partition_le decoded
  refine ⟨fun item hx => ?_, fun serial hx => ?_⟩
  · obtain ⟨u, hu, identifies⟩ := identifies_of_decGtin hx
    obtain rfl : u = t := Except.ok.inj (hu.symm.trans decoded)
    have total := identifies.length item
    exact ⟨by omega, identifies.isDigitStr⟩
  · obtain ⟨u, hu, identifies⟩ := identifies_of_decSscc hx
    obtain rfl : u = t := Except.ok.inj (hu.symm.trans decoded)
    have total := identifies.length serial
    exact ⟨by omega, identifies.isDigitStr⟩

end Sys2Proof.Machine

/-! ### Errors, and what causes them (R131, R133, R137) -/

namespace Sys2Proof.Machine

/-- R133: no result field is set. -/
theorem Response.noResult_iff (r : Response) : r.noResult = true ↔
    r.image = none ∧ r.tag = none ∧ r.present = none ∧ r.text = none ∧ r.digit = none ∧ r.valid = none := by
  simp [Response.noResult, and_assoc]

/-- What soundness says of the variant and of the results, by status (R14, R133, R137). -/
theorem Response.wf_cases {r : Response} (sound : r.wf = true) :
    (r.status = .ok ∧ r.variant = none) ∨
      (r.status = .notImplemented ∧ (∃ n, r.variant = some (.reserved n)) ∧ r.noResult = true) ∨
      (r.status ≠ .ok ∧ r.status ≠ .notImplemented ∧ r.variant = none ∧ r.noResult = true) := by
  unfold Response.wf at sound
  split at sound
  · next ok =>
    obtain ⟨unnamed, -⟩ := Bool.and_eq_true_iff.mp sound
    exact .inl ⟨ok, Option.isNone_iff_eq_none.mp unnamed⟩
  · next notImplemented =>
    obtain ⟨named, empty⟩ := Bool.and_eq_true_iff.mp sound
    split at named
    · next n hn => exact .inr (.inl ⟨notImplemented, ⟨n, hn⟩, empty⟩)
    · cases named
  · next failed other =>
    obtain ⟨unnamed, empty⟩ := Bool.and_eq_true_iff.mp sound
    exact .inr (.inr ⟨failed, other, Option.isNone_iff_eq_none.mp unnamed, empty⟩)

/-- Settles O9: an instruction leaves a sound response on the port, whose status says which of its fields are absent. -/
theorem errorsCarryNoResult : Obligations.ErrorsCarryNoResult := by
  intro i s t r h hr
  obtain ⟨q, sound, rfl⟩ := exec_sound h
  obtain rfl : q = r := Option.some.inj hr
  rw [← Response.noResult_iff]
  rcases Response.wf_cases sound with ⟨ok, unnamed⟩ | ⟨notImplemented, named, empty⟩ | ⟨-, other, unnamed, empty⟩
  · exact ⟨rfl, fun failed => absurd ok failed, fun _ => unnamed, fun hs => by simp [ok] at hs⟩
  · exact ⟨rfl, fun _ => empty, fun hs => absurd notImplemented hs, fun _ => named⟩
  · exact ⟨rfl, fun _ => empty, fun _ => unnamed, fun hs => absurd hs other⟩

/-- R131: where the decode raises an error, so does every operation that decodes. -/
theorem exec_decodingOps_of_raise {h ser : Str} {i : Instr} {x : Error} (hi : i ∈ decodingOps h ser)
    (hd : decodeTag h = .error (.raise x)) (s : State) : exec i s = .next (s.respond (Response.ofError x)) := by
  simp only [decodingOps, List.mem_cons, List.not_mem_nil, or_false] at hi
  rcases hi with rfl | rfl | rfl | rfl | rfl
  · exact execDec_of_raise hd s
  · exact answerDerived_of_raise hd s
  · exact answerDerived_of_raise hd s
  · exact answerDerived_of_raise hd s
  · exact answerImage_of_raise (reserialize_of_decodeTag_error hd ser) s

/-- Settles O41: each cause makes the decode raise its error, in the decoder's order: conversion, header, partition,
variant. -/
theorem decodingErrorsAndTheirCauses : Obligations.DecodingErrorsAndTheirCauses := by
  intro s h ser i hi
  refine ⟨fun malformed => exec_decodingOps_of_raise hi (decodeTag_of_malformed malformed) s, fun b hb =>
    ⟨fun hl unknown => ?_, fun hl known hp => ?_, fun name hl reserved hp => ?_⟩⟩
  · exact exec_decodingOps_of_raise hi (decodeTag_of_unsupported hb hl unknown) s
  · obtain ⟨v, hv⟩ := Option.ne_none_iff_exists'.mp known
    exact exec_decodingOps_of_raise hi (decodeTag_of_partition7 hb hv hl hp) s
  · obtain ⟨e, image⟩ := exists_imageIs hb reserved hp
    exact exec_decodingOps_of_raise hi (decodeTag_of_reserved image hl) s

end Sys2Proof.Machine

/-! ### What a reset during a transaction loses (R150) -/

namespace Sys2Proof.Machine

/-- R14, log entry 22: after a run over the requests of answered transactions the port holds the last response, and without any
what it held before. -/
theorem run_of_answered_rsp {xs : List Transaction} (hxs : ∀ x ∈ xs, x.Answered) {s t : State}
    (hs : s.requests = xs.map Transaction.request) (hrun : core.run xs.length s = .next t) :
    t.rsp = (xs.getLast?.map Transaction.response).or s.rsp := by
  induction xs generalizing s with
  | nil =>
    cases hrun
    rfl
  | cons x xs ih =>
    obtain ⟨hx, hrest⟩ := List.forall_mem_cons.1 hxs
    rw [List.length_cons, run_succ _ (step_of_answered hx hs)] at hrun
    rw [ih hrest rfl hrun, List.getLast?_cons]
    cases xs.getLast? <;> rfl

/-- Settles O60: the run is the list of its answered transactions, and the reset takes the first one off the list. -/
theorem abandonedTransactionLosesItsResponseOnly : Obligations.AbandonedTransactionLosesItsResponseOnly := by
  intro s t w rest hs hrun
  obtain ⟨xs, hws, hxs⟩ := answered_of_run hs hrun
  obtain ⟨⟨w, r⟩, later, rfl, rfl, rfl⟩ := List.map_eq_cons_iff.mp hws
  rw [List.length_map] at hrun
  have hlater : ∀ x ∈ later, x.Answered := (List.forall_mem_cons.mp hxs).2
  have hs' : s.abandonTransaction.requests = later.map Transaction.request := by
    rw [abandonTransaction_requests, hs, List.tail_cons]
  obtain ⟨t₁, hrun₁, -, hhist⟩ := run_of_answered hxs hs
  obtain rfl : t₁ = t := Host.Outcome.next.inj (hrun₁.symm.trans hrun)
  obtain ⟨t', hrun', hreq', hhist'⟩ := run_of_answered hlater hs'
  have hrsp := run_of_answered_rsp hxs hs hrun
  have hrsp' := run_of_answered_rsp hlater hs' hrun'
  refine ⟨t', r, later, by rw [List.length_map, hrun'], hreq', hhist, hhist', rfl, fun hnone => ?_, fun hsome => ?_⟩
  · obtain rfl := List.map_eq_nil_iff.mp hnone
    exact hrsp'
  · obtain ⟨x, xs, rfl⟩ := List.exists_cons_of_ne_nil (mt List.map_eq_nil_iff.mpr hsome)
    rw [hrsp, hrsp', List.getLast?_cons_cons, List.getLast?_cons]
    rfl

end Sys2Proof.Machine
